-- ==== Sys2Proof/Word.lean ====
section
/-! DEFINITION. The words of the keypad scanner: the widths the spec names. All are unsigned, and bit 0
is the least significant bit (00_scope.md R13). -/

namespace Sys2Proof

/-- `u8` of the spec's data model (10_state.md R20). -/
abbrev U8 := BitVec 8

/-- `u16` of the spec's data model (10_state.md R20). -/
abbrev U16 := BitVec 16

/-- A key code, `KEYCODE_W` = 8 bits wide (00_scope.md R8). -/
abbrev KeyCode := BitVec 8

/-- One operation word (30_encoding.md R90). -/
abbrev OpWord := BitVec 16

/-- One result word (30_encoding.md R93). -/
abbrev ResultWord := BitVec 16

/-- A pin identifier, opaque: no rule reads one (00_scope.md R5). -/
abbrev PinId := Nat

end Sys2Proof
end

