-- ==== Sys2Proof/Syntax.lean ====
section
/-! DEFINITION. The operations of the block as syntax: one constructor of `Instr` per row of the opcode
table (30_encoding.md R95), with the operands of R92. -/

namespace Sys2Proof

/-- The three samples `s0`, `s1`, `s2` of the row under test, in time order; `true` = asserted
(30_encoding.md R92; 00_scope.md R15). -/
structure Samples where
  s0 : Bool
  s1 : Bool
  s2 : Bool
  deriving DecidableEq, Repr

/-- The fourteen operations (00_scope.md R11; 30_encoding.md R95). -/
inductive Instr where
  /-- No event happened (40_scan_state_machine.md R127). -/
  | nop
  /-- Edge notification of row `r` (R128). -/
  | edge (r : BitVec 3) (sm : Samples)
  /-- Expiry of the scan timer (R129). -/
  | step (sm : Samples)
  /-- One tick of the power-on window (42_power_on_latch.md R166). -/
  | wtick
  /-- `request_access()` (41_shared_pin_arbiter.md R150). -/
  | req
  /-- `release_access()`: every row sampled once, and three samples of the lowest asserted row (R151). -/
  | rel (rows : BitVec 5) (sm : Samples)
  /-- `get_power_on_key()` (42_power_on_latch.md R167). -/
  | rdkey
  /-- `get_power_on_row_col()` (R168). -/
  | rdrc
  /-- `get_key_state(k)` (43_host_queries.md R180). -/
  | kstate (k : KeyCode)
  /-- `get_supported_keys()[i]` (R181). -/
  | supp (i : BitVec 5)
  /-- `get_alt_key_functions()[i]` (R182). -/
  | alt (i : BitVec 5)
  /-- Edge notification of standalone key `n`, raw pin level `lvl` (44_standalone_debouncer.md R190). -/
  | sedge (n : BitVec 1) (lvl : Bool)
  /-- Debounce timer expiry of standalone key `n`, raw pin level `lvl` (R191). -/
  | stick (n : BitVec 1) (lvl : Bool)
  /-- Poll timer tick: every row sampled once (45_polled_variant.md R201). -/
  | ptick (rows : BitVec 5)
  deriving DecidableEq, Repr

/-- The mnemonic of an operation (30_encoding.md R95). -/
def Instr.mnemonic : Instr → String
  | .nop => "NOP"
  | .edge _ _ => "EDGE"
  | .step _ => "STEP"
  | .wtick => "WTICK"
  | .req => "REQ"
  | .rel _ _ => "REL"
  | .rdkey => "RDKEY"
  | .rdrc => "RDRC"
  | .kstate _ => "KSTATE"
  | .supp _ => "SUPP"
  | .alt _ => "ALT"
  | .sedge _ _ => "SEDGE"
  | .stick _ _ => "STICK"
  | .ptick _ => "PTICK"

/-! The pseudo-operations of 30_encoding.md R99. -/

/-- All three samples asserted, `s = 7`. -/
def Samples.asserted : Samples := ⟨true, true, true⟩

/-- All three samples released, `s = 0`. -/
def Samples.released : Samples := ⟨false, false, false⟩

/-- `STEP.A`. -/
def Instr.stepA : Instr := .step .asserted

/-- `STEP.R`. -/
def Instr.stepR : Instr := .step .released

/-- `EDGE.A r`. -/
def Instr.edgeA (r : BitVec 3) : Instr := .edge r .asserted

/-- `EDGE.R r`. -/
def Instr.edgeR (r : BitVec 3) : Instr := .edge r .released

/-- `REL.Q`: release with no row asserted. -/
def Instr.relQ : Instr := .rel 0#5 .released

/-- `REPEAT count operation`. -/
def Instr.repeated (count : Nat) (i : Instr) : List Instr := List.replicate count i

/-- `s0`, `s1`, `s2` as the one number `s = W[2:0]` (30_encoding.md R92). -/
def Samples.bits (sm : Samples) : BitVec 3 :=
  BitVec.ofBool sm.s2 ++ BitVec.ofBool sm.s1 ++ BitVec.ofBool sm.s0

/-- The text form of one operation of a trace, values in decimal (30_encoding.md R98). -/
def Instr.text (i : Instr) : String :=
  i.mnemonic ++
  match i with
  | .nop | .wtick | .req | .rdkey | .rdrc => ""
  | .edge r sm => " r=" ++ toString r.toNat ++ " s=" ++ toString sm.bits.toNat
  | .step sm => " s=" ++ toString sm.bits.toNat
  | .rel rows sm => " rows=" ++ toString rows.toNat ++ " s=" ++ toString sm.bits.toNat
  | .kstate k => " k=" ++ toString k.toNat
  | .supp i | .alt i => " i=" ++ toString i.toNat
  | .sedge n lvl | .stick n lvl => " n=" ++ toString n.toNat ++ " lvl=" ++ toString lvl.toNat
  | .ptick rows => " rows=" ++ toString rows.toNat

end Sys2Proof
end

