-- ==== Sys2Proof/Decode.lean ====
section
/-! DEFINITION. The operation word (30_encoding.md R90 to R97): the decoder, total and rejecting by name,
and the encoder. Whether an operand is in range under the configuration (the rest of R96) is
`Instr.wf` and the meanings' own check: no configuration stands in a word. -/

namespace Sys2Proof

/-- Why a word is illegal whatever the configuration (30_encoding.md R96). -/
inductive DecodeError where
  /-- `OPC` is 0xE or 0xF. -/
  | reservedOpcode
  /-- A bit that the format marks 0 is 1. -/
  | reservedBits
  deriving DecidableEq, Repr

/-- `W[15:12]` (30_encoding.md R90). -/
def opcodeOf (w : OpWord) : BitVec 4 := w.extractLsb' 12 4

/-- `s0`, `s1`, `s2` = `W[0]`, `W[1]`, `W[2]` (30_encoding.md R92). -/
def samplesOf (w : OpWord) : Samples := ⟨w.getLsbD 0, w.getLsbD 1, w.getLsbD 2⟩

/-- The instruction `i` where the bits the format marks 0 are 0 (30_encoding.md R96). -/
def whereZero (zero : Bool) (i : Instr) : Except DecodeError Instr :=
  if zero then .ok i else .error .reservedBits

/-- Format Z, no operand (30_encoding.md R91). -/
def formatZ (w : OpWord) (i : Instr) : Except DecodeError Instr :=
  whereZero (w.extractLsb' 0 12 == 0#12) i

/-- Format S, samples. -/
def formatS (w : OpWord) (f : Samples → Instr) : Except DecodeError Instr :=
  whereZero (w.extractLsb' 3 9 == 0#9) (f (samplesOf w))

/-- Format E, row and samples. -/
def formatE (w : OpWord) (f : BitVec 3 → Samples → Instr) : Except DecodeError Instr :=
  whereZero (w.extractLsb' 11 1 == 0#1 && w.extractLsb' 3 5 == 0#5) (f (w.extractLsb' 8 3) (samplesOf w))

/-- Format V, row vector and samples. -/
def formatV (w : OpWord) (f : BitVec 5 → Samples → Instr) : Except DecodeError Instr :=
  whereZero (w.extractLsb' 9 3 == 0#3 && w.extractLsb' 3 1 == 0#1) (f (w.extractLsb' 4 5) (samplesOf w))

/-- Format P, row vector. -/
def formatP (w : OpWord) (f : BitVec 5 → Instr) : Except DecodeError Instr :=
  whereZero (w.extractLsb' 9 3 == 0#3 && w.extractLsb' 0 4 == 0#4) (f (w.extractLsb' 4 5))

/-- Format K, key code. -/
def formatK (w : OpWord) (f : KeyCode → Instr) : Except DecodeError Instr :=
  whereZero (w.extractLsb' 8 4 == 0#4) (f (w.extractLsb' 0 8))

/-- Format I, table index. -/
def formatI (w : OpWord) (f : BitVec 5 → Instr) : Except DecodeError Instr :=
  whereZero (w.extractLsb' 5 7 == 0#7) (f (w.extractLsb' 0 5))

/-- Format L, instance and level. -/
def formatL (w : OpWord) (f : BitVec 1 → Bool → Instr) : Except DecodeError Instr :=
  whereZero (w.extractLsb' 9 3 == 0#3 && w.extractLsb' 1 7 == 0#7) (f (w.extractLsb' 8 1) (w.getLsbD 0))

/-- The operation a word stands for (30_encoding.md R91, R92, R95, R96). -/
def decode (w : OpWord) : Except DecodeError Instr :=
  match (opcodeOf w).toNat with
  | 0x0 => formatZ w .nop
  | 0x1 => formatE w .edge
  | 0x2 => formatS w .step
  | 0x3 => formatZ w .wtick
  | 0x4 => formatZ w .req
  | 0x5 => formatV w .rel
  | 0x6 => formatZ w .rdkey
  | 0x7 => formatZ w .rdrc
  | 0x8 => formatK w .kstate
  | 0x9 => formatI w .supp
  | 0xA => formatI w .alt
  | 0xB => formatL w .sedge
  | 0xC => formatL w .stick
  | 0xD => formatP w .ptick
  | _ => .error .reservedOpcode

/-- The word of an operation, field by field as the format tables of 30_encoding.md R91 write it. -/
def encode : Instr → OpWord
  | .nop => 0x0#4 ++ 0#12
  | .edge r sm => 0x1#4 ++ 0#1 ++ r ++ 0#5 ++ sm.bits
  | .step sm => 0x2#4 ++ 0#9 ++ sm.bits
  | .wtick => 0x3#4 ++ 0#12
  | .req => 0x4#4 ++ 0#12
  | .rel rows sm => 0x5#4 ++ 0#3 ++ rows ++ 0#1 ++ sm.bits
  | .rdkey => 0x6#4 ++ 0#12
  | .rdrc => 0x7#4 ++ 0#12
  | .kstate k => 0x8#4 ++ 0#4 ++ k
  | .supp i => 0x9#4 ++ 0#7 ++ i
  | .alt i => 0xA#4 ++ 0#7 ++ i
  | .sedge n lvl => 0xB#4 ++ 0#3 ++ n ++ 0#7 ++ BitVec.ofBool lvl
  | .stick n lvl => 0xC#4 ++ 0#3 ++ n ++ 0#7 ++ BitVec.ofBool lvl
  | .ptick rows => 0xD#4 ++ 0#3 ++ rows ++ 0#4

/-- One row of the opcode map: a word encodes the operation if and only if `W & mask = match`
(30_encoding.md R95). -/
structure OpcodeRow where
  mnemonic : String
  pattern  : OpWord
  mask     : OpWord
  deriving DecidableEq, Repr

/-- The row of an operation in the opcode map (30_encoding.md R95). -/
def opcodeRow : Instr → OpcodeRow
  | .nop => ⟨"NOP", 0x0000#16, 0xFFFF#16⟩
  | .edge _ _ => ⟨"EDGE", 0x1000#16, 0xF8F8#16⟩
  | .step _ => ⟨"STEP", 0x2000#16, 0xFFF8#16⟩
  | .wtick => ⟨"WTICK", 0x3000#16, 0xFFFF#16⟩
  | .req => ⟨"REQ", 0x4000#16, 0xFFFF#16⟩
  | .rel _ _ => ⟨"REL", 0x5000#16, 0xFE08#16⟩
  | .rdkey => ⟨"RDKEY", 0x6000#16, 0xFFFF#16⟩
  | .rdrc => ⟨"RDRC", 0x7000#16, 0xFFFF#16⟩
  | .kstate _ => ⟨"KSTATE", 0x8000#16, 0xFF00#16⟩
  | .supp _ => ⟨"SUPP", 0x9000#16, 0xFFE0#16⟩
  | .alt _ => ⟨"ALT", 0xA000#16, 0xFFE0#16⟩
  | .sedge _ _ => ⟨"SEDGE", 0xB000#16, 0xFEFE#16⟩
  | .stick _ _ => ⟨"STICK", 0xC000#16, 0xFEFE#16⟩
  | .ptick _ => ⟨"PTICK", 0xD000#16, 0xFE0F#16⟩

/-- The opcode map of 30_encoding.md R95, whole. -/
def opcodeMap : List OpcodeRow :=
  [.nop, .edge 0 .released, .step .released, .wtick, .req, .rel 0 .released, .rdkey, .rdrc, .kstate 0,
    .supp 0, .alt 0, .sedge 0 false, .stick 0 false, .ptick 0].map opcodeRow

/-- The operation word whose bits are `w`, of which the opcode table gives `nbits`; every bit above is 0.
The block's words are single 16-bit words, so no byte order enters (20_memory.md R64). -/
def tableWord (nbits w : Nat) : OpWord := BitVec.ofNat 16 (w % 2 ^ nbits)

/-- What the decoder reads from the instruction whose bits are `w`. -/
def decodeTableWord (nbits w : Nat) : Option Instr := (decode (tableWord nbits w)).toOption

end Sys2Proof
end

