-- ==== Sys2Proof/Config.lean ====
section
/-! DEFINITION. The implementation parameters of 00_scope.md R5 to R9 and 10_state.md R40 to R43. What the
spec leaves OPEN, and what R40 and R41 list among the configuration inputs, is a field of `Config`, which
every claim quantifies over (three of these fields have one legal value, their default here:
`Config.levelsOk`, `Config.releaseTimeoutOk`); the rest is a constant. The spec leaves no result value open, so no uninterpreted constant stands here. -/

namespace Sys2Proof

/-- `N_CONFIRM`: the asserted samples that confirm a press (00_scope.md R6). -/
def nConfirm : Nat := 3

/-- `KEYCODE_W`: the width of a key code (00_scope.md R8). -/
def keyCodeWidth : Nat := 8

/-- `UNUSED`: the code of a cell or table entry that names no key (00_scope.md R8). -/
def unused : KeyCode := 0x00#8

/-- `MAX_KEYS`: the length of the two capability tables (00_scope.md R8). -/
def maxKeys : Nat := 25

/-- Configuration of one standalone key: its opaque pin, `SKEY_CODE[n]` and `SKEY_ACTIVE[n]`, the pin
level that means "pressed" (00_scope.md R9; 10_state.md R34, R41). -/
structure StandaloneKeyConfig where
  pin    : PinId
  code   : KeyCode
  active : Bool := false
  deriving DecidableEq, Repr

/-- The configuration inputs of one block instance, constant while `rst = 0` (10_state.md R40, R41, R43;
70_reset_and_hazards.md R253). -/
structure Config where
  /-- `row_pins`, opaque (R5). -/
  rowPins : List PinId
  /-- `col_pins`, opaque (R5). -/
  colPins : List PinId
  /-- `R`, the number of rows (R5). -/
  numRows : Nat
  /-- `C`, the number of columns (R5). -/
  numCols : Nat
  /-- `DEBOUNCE_TICKS`, the source's `debounce_threshold` (R6). -/
  debounceTicks : U16 := 3#16
  /-- `RELEASE_TIMEOUT_TICKS`, 250; no rule reads it (R6). -/
  releaseTimeoutTicks : U16 := 250#16
  /-- `POWERON_WINDOW_TICKS` (R7). -/
  powerOnWindowTicks : U16
  /-- `KEYMAP[r][c]` (R8, R43). -/
  keymap : List (List KeyCode)
  /-- `KEYS_PRESENT[i]`, `MAX_KEYS` entries (R8, R43). -/
  keysPresent : Vector KeyCode maxKeys
  /-- `ALT_KEYS[i]`, `MAX_KEYS` entries (R8, R43). -/
  altKeys : Vector KeyCode maxKeys
  /-- `POLLED` (R9). -/
  polled : Bool := false
  /-- The standalone keys, `N_SKEY` of them (R9). -/
  skeys : List StandaloneKeyConfig
  /-- `ROW_ACTIVE_LEVEL`: the row pin level that means "asserted", 0 (R9, R15). -/
  rowActiveLevel : Bool := false
  /-- `COL_ACTIVE_LEVEL`: the column pin level that selects a column, 0 (R9). -/
  colActiveLevel : Bool := false
  deriving DecidableEq, Repr

/-- `N_SKEY` (00_scope.md R9). -/
def Config.nSkey (c : Config) : Nat := c.skeys.length

/-- A table of `MAX_KEYS` entries that begins with `l` and is `UNUSED` from there on. -/
def capabilityTable (l : List KeyCode) : Vector KeyCode maxKeys :=
  Vector.ofFn fun i => l.getD i.val unused

/-- The spec's example configuration CFG-A (95_test_vectors.md section 1). DESIGN CHOICE, unsafe (log
entry 1): `State.reset` is the reset state of this configuration. -/
def Config.cfgA : Config where
  rowPins := [0, 1, 2, 3]
  colPins := [4, 5, 6]
  numRows := 4
  numCols := 3
  powerOnWindowTicks := 100#16
  keymap := [[0x11#8, 0x12#8, 0x13#8], [0x21#8, 0x22#8, 0x23#8],
             [0x31#8, 0x32#8, 0x33#8], [0x41#8, 0x42#8, 0x43#8]]
  keysPresent := capabilityTable [0x11#8, 0x12#8, 0x13#8, 0x21#8, 0x22#8, 0x23#8,
                                  0x31#8, 0x32#8, 0x33#8, 0x41#8, 0x42#8, 0x43#8]
  altKeys := capabilityTable [0x44#8, 0x45#8]
  skeys := [{ pin := 7, code := 0x70#8 }]

end Sys2Proof
end

