-- ==== Sys2Proof/WellFormed.lean ====
section
/-! DEFINITION. Which configurations are legal (00_scope.md R5 to R9; 10_state.md R40 to R43) and which
operations are legal under a configuration (30_encoding.md R96). -/

namespace Sys2Proof

/-- `1 ≤ R ≤ 5`, and a pin for each row (00_scope.md R5). -/
def Config.rowsOk (c : Config) : Bool :=
  decide (1 ≤ c.numRows) && decide (c.numRows ≤ 5) && decide (c.rowPins.length = c.numRows)

/-- `1 ≤ C ≤ 5`, and a pin for each column (00_scope.md R5). -/
def Config.colsOk (c : Config) : Bool :=
  decide (1 ≤ c.numCols) && decide (c.numCols ≤ 5) && decide (c.colPins.length = c.numCols)

/-- The matrix pins are mutually disjoint (00_scope.md R5). DEDUCED, safe (log entry 17). -/
def Config.pinsOk (c : Config) : Bool := decide (c.rowPins ++ c.colPins).Nodup

/-- `1 ≤ DEBOUNCE_TICKS` (00_scope.md R6). -/
def Config.debounceOk (c : Config) : Bool := decide (c.debounceTicks ≠ 0#16)

/-- `KEYMAP` has an entry for each cell and no other (10_state.md R43). -/
def Config.keymapOk (c : Config) : Bool :=
  decide (c.keymap.length = c.numRows) && c.keymap.all fun row => decide (row.length = c.numCols)

/-- `N_SKEY ≤ 2` (00_scope.md R9). -/
def Config.skeysOk (c : Config) : Bool := decide (c.nSkey ≤ 2)

/-- `ROW_ACTIVE_LEVEL` and `COL_ACTIVE_LEVEL` are 0 (00_scope.md R9). -/
def Config.levelsOk (c : Config) : Bool := !c.rowActiveLevel && !c.colActiveLevel

/-- `RELEASE_TIMEOUT_TICKS` is 250 (00_scope.md R6). -/
def Config.releaseTimeoutOk (c : Config) : Bool := decide (c.releaseTimeoutTicks = 250#16)

/-- A legal configuration. -/
def Config.wf (c : Config) : Bool :=
  c.rowsOk && c.colsOk && c.pinsOk && c.debounceOk && c.keymapOk && c.skeysOk && c.levelsOk &&
    c.releaseTimeoutOk

/-- An operation whose operands are in range under the configuration: the part of 30_encoding.md R96
that concerns operands. Every other operand value is legal. -/
def Instr.wf (c : Config) : Instr → Bool
  | .nop => true
  | .edge r _ => decide (r.toNat < c.numRows)
  | .step _ => true
  | .wtick => true
  | .req => true
  | .rel rows _ => decide (rows.toNat < 2 ^ c.numRows)
  | .rdkey => true
  | .rdrc => true
  | .kstate _ => true
  | .supp _ => true
  | .alt _ => true
  | .sedge n _ => decide (n.toNat < c.nSkey)
  | .stick n _ => decide (n.toNat < c.nSkey)
  | .ptick rows => decide (rows.toNat < 2 ^ c.numRows)

end Sys2Proof
end

