-- ==== Sys2Proof/Machine/State.lean ====
section
/-! DEFINITION. The state of one block instance (10_state.md R20), as plain data, grouped as the spec groups
it; the state after reset (R50); and the reasons a step can stop. -/

namespace Sys2Proof.Machine

/-- `phase` (10_state.md R21). -/
inductive Phase where
  | idle
  | identifyButton
  | releasePending
  | checkForKeyChange
  | releaseDetected
  deriving DecidableEq, Repr

/-- `owner` (10_state.md R26). -/
inductive Owner where
  | scanner
  | externalPeer
  deriving DecidableEq, Repr

/-- `latch_state` (10_state.md R31); `armed` is `ArmedWaitingForInterrupt`. -/
inductive LatchState where
  | none
  | armed
  | capturedPending
  | consumed
  deriving DecidableEq, Repr

/-- ScanState (10_state.md R21 to R25). -/
structure ScanState where
  phase              : Phase
  currentColumn      : U8
  currentRow         : U8
  activeValid        : Bool
  activeCode         : KeyCode
  releaseStableCount : U16
  deriving DecidableEq, Repr

/-- ArbitrationToken (10_state.md R26, R27). -/
structure ArbitrationToken where
  owner    : Owner
  arbFault : Bool
  deriving DecidableEq, Repr

/-- PowerOnLatch (10_state.md R31 to R33). -/
structure PowerOnLatch where
  state    : LatchState
  rowValid : Bool
  row      : U8
  colValid : Bool
  col      : U8
  deadline : U16
  deriving DecidableEq, Repr

/-- StandaloneKeyState of one instance (10_state.md R34). -/
structure StandaloneKeyState where
  lastLevel : Bool
  idle      : Bool
  deriving DecidableEq, Repr

/-- `cell_level[r][c]` and `cell_cnt[r][c]` of one cell (10_state.md R36). -/
structure Cell where
  level : Bool
  cnt   : U16
  deriving DecidableEq, Repr

/-- The polled variant's state (10_state.md R36): `poll_col`, and the cells by row, then by column. -/
structure PolledState where
  col   : U8
  cells : List (List Cell)
  deriving DecidableEq, Repr

/-- One event for the Event Sink (30_encoding.md R94). -/
structure Event where
  code    : KeyCode
  pressed : Bool
  deriving DecidableEq, Repr

/-- What the operation just done put on the output ports (20_memory.md R60, R61): its events in order, its
result word if it has one (`q_res`, `q_done`), and `peer_done`. The model's own (log entry 4). -/
structure Output where
  events   : List Event := []
  res      : Option ResultWord := none
  peerDone : Bool := false
  deriving DecidableEq, Repr

/-- A strobe at the ports of 20_memory.md R60, with the levels of the row pins at the times the block reads
them (log entry 12): `l0`, `l1`, `l2` for three samples in time order, `levels` where every row is read once.
Each is the whole port `row_in`, row pin `r` in bit `r`; which row is sampled is the block's affair (R67). -/
inductive Strobe where
  /-- `row_edge[r]`. -/
  | rowEdge (r : BitVec 3) (l0 l1 l2 : BitVec 5)
  /-- `scan_tick`. -/
  | scanTick (l0 l1 l2 : BitVec 5)
  /-- `win_tick`. -/
  | winTick
  /-- `peer_req`. -/
  | peerReq
  /-- `peer_rel`. -/
  | peerRel (levels l0 l1 l2 : BitVec 5)
  /-- `q_op`, `q_arg`. -/
  | query (op : BitVec 4) (arg : BitVec 12)
  /-- `skey_edge[n]`. -/
  | skeyEdge (n : BitVec 1) (lvl : Bool)
  /-- `skey_tick[n]`. -/
  | skeyTick (n : BitVec 1) (lvl : Bool)
  /-- `poll_tick`. -/
  | pollTick (levels : BitVec 5)
  deriving DecidableEq, Repr

/-- One thing the outside does to the block (log entry 2). -/
inductive Input where
  /-- An operation word at the operation port (20_memory.md R61). -/
  | word (w : OpWord)
  /-- A strobe at the ports, from which the block makes the operation word (R60, R62). -/
  | strobe (st : Strobe)
  /-- The reset input takes this level (70_reset_and_hazards.md R250). -/
  | rst (level : Bool)
  /-- The configuration inputs take these values (R253, R269). -/
  | configure (c : Config)
  deriving DecidableEq, Repr

/-- The state of one block instance. The first five groups after `cfg` are the tuple of 10_state.md R20;
`cfg` is the configuration, which no operation writes (log entry 1); `rst` is the reset input (log
entry 10); `out` and `inputs` are the model's own (log entries 2, 4). -/
structure State where
  cfg    : Config
  scan   : ScanState
  arb    : ArbitrationToken
  latch  : PowerOnLatch
  skeys  : List StandaloneKeyState
  poll   : PolledState
  out    : Output
  rst    : Bool
  inputs : List Input
  deriving DecidableEq, Repr

/-- Reasons the machine stops with a fault: an index that names no entry. The spec says that such an access
cannot occur from a reachable state (20_memory.md R65; log entry 7). -/
inductive Fault where
  /-- Raised by ConfirmPress, RDKEY and PTICK where `KEYMAP[r][c]` does not exist. Safe. -/
  | noKeymapEntry (r c : Nat)
  /-- Raised by PTICK where the cell `(r, c)` does not exist. Safe. -/
  | noCell (r c : Nat)
  /-- Raised by SEDGE and STICK where the state or the configuration lacks instance `n < N_SKEY`. Safe. -/
  | noStandaloneKey (n : Nat)
  deriving DecidableEq, Repr

/-- Reasons for which an input has no meaning. -/
inductive Refusal where
  /-- Raised by `exec` for an instruction without a meaning in this model; none is left. Safe. -/
  | notModelled (mnemonic : String)
  /-- Raised by `step` for a word with a reserved opcode or a reserved bit, in reset too (30_encoding.md R96).
  Safe. -/
  | illegalWord (why : DecodeError)
  /-- Raised by EDGE, REL, PTICK, SEDGE and STICK, and by `step` in reset, for an operand out of range (R96).
  Safe. -/
  | illegalOperand
  /-- Raised by `step` for a change of the configuration while `rst = 0` (70_reset_and_hazards.md R269;
  93_implementation_defined.md U15). Safe. -/
  | configurationChanged
  /-- Raised by `step` for a configuration outside the legal values (00_scope.md R5 to R9). Safe. -/
  | illegalConfiguration
  deriving DecidableEq, Repr

/-- ScanState after reset (10_state.md R50). -/
def ScanState.reset : ScanState where
  phase := .idle
  currentColumn := 0#8
  currentRow := 0#8
  activeValid := false
  activeCode := 0#8
  releaseStableCount := 0#16

/-- ArbitrationToken after reset (10_state.md R50). -/
def ArbitrationToken.reset : ArbitrationToken where
  owner := .scanner
  arbFault := false

/-- PowerOnLatch after reset (10_state.md R50). -/
def PowerOnLatch.reset (c : Config) : PowerOnLatch where
  state := if c.powerOnWindowTicks = 0#16 then .none else .armed
  rowValid := false
  row := 0#8
  colValid := false
  col := 0#8
  deadline := c.powerOnWindowTicks

/-- A standalone key after reset: the released level, idle (10_state.md R50). -/
def StandaloneKeyState.reset (k : StandaloneKeyConfig) : StandaloneKeyState where
  lastLevel := !k.active
  idle := true

/-- The polled variant's state after reset: column 0, every cell released (10_state.md R50). -/
def PolledState.reset (c : Config) : PolledState where
  col := 0#8
  cells := List.replicate c.numRows (List.replicate c.numCols { level := false, cnt := 0#16 })

/-- The block right after reset under configuration `c`, `rst` released and nothing waiting
(10_state.md R50; 70_reset_and_hazards.md R250 to R252). -/
def State.resetOf (c : Config) : State where
  cfg := c
  scan := .reset
  arb := .reset
  latch := .reset c
  skeys := c.skeys.map .reset
  poll := .reset c
  out := {}
  rst := false
  inputs := []

/-- The machine right after reset. The configuration is an input that the spec leaves open: DESIGN CHOICE,
unsafe, the spec's example configuration (log entry 1). -/
def State.reset : State := State.resetOf .cfgA

end Sys2Proof.Machine
end

