-- ==== Sys2Proof/Machine/Flags.lean ====
section
/-! DEFINITION. The derived flags and output ports, functions of the state (10_state.md R28 to R30, R35),
and the codes of the enumerated fields (30_encoding.md R100). -/

namespace Sys2Proof.Machine

/-- `irq_en`: row edge notifications are enabled (10_state.md R28). -/
def irqEn (s : State) : Bool :=
  !s.cfg.polled && s.scan.phase == .idle && s.arb.owner == .scanner

/-- `timer_armed`: the periodic scan timer is armed (10_state.md R29). -/
def timerArmed (s : State) : Bool :=
  !s.cfg.polled && s.scan.phase != .idle && s.arb.owner == .scanner

/-- `col_drive_en`: the block drives the column pins (10_state.md R30). -/
def colDriveEn (s : State) : Bool := s.arb.owner == .scanner

/-- `ColPattern(c)`: column `c` is selected (10_state.md R30). -/
def colPattern (s : State) (c : Nat) : Bool :=
  if s.cfg.polled then c == s.poll.col.toNat
  else match s.scan.phase with
    | .identifyButton => c == s.scan.currentColumn.toNat
    | .releasePending => c == s.scan.currentColumn.toNat
    | .idle => true
    | .checkForKeyChange => true
    | .releaseDetected => true

/-- `col_sel`: `ColPattern` of columns `0 .. C−1` (20_memory.md R60). -/
def colSel (s : State) : List Bool := (List.range s.cfg.numCols).map (colPattern s)

/-- The level the block drives on column pin `c`; none while the peer owns the pins (20_memory.md R60, R68;
10_state.md R30). -/
def colPinLevel (s : State) (c : Nat) : Option Bool :=
  if colDriveEn s then
    some (if colPattern s c then s.cfg.colActiveLevel else !s.cfg.colActiveLevel)
  else none

/-- `sk_irq_en[n]`: the edge notification of standalone key `n` is enabled (10_state.md R35). -/
def skIrqEn (s : State) (n : Nat) : Bool := s.skeys[n]?.any fun k => k.idle

/-- `sk_timer_armed[n]`: the debounce timer of standalone key `n` is armed (10_state.md R35). -/
def skTimerArmed (s : State) (n : Nat) : Bool := s.skeys[n]?.any fun k => !k.idle

/-- The code of a phase (10_state.md R21). -/
def Phase.code : Phase → BitVec 3
  | .idle => 0#3
  | .identifyButton => 1#3
  | .releasePending => 2#3
  | .checkForKeyChange => 3#3
  | .releaseDetected => 4#3

/-- The code of an owner (10_state.md R26). -/
def Owner.code : Owner → BitVec 1
  | .scanner => 0#1
  | .externalPeer => 1#1

/-- The code of a latch state (10_state.md R31). -/
def LatchState.code : LatchState → BitVec 2
  | .none => 0#2
  | .armed => 1#2
  | .capturedPending => 2#2
  | .consumed => 3#2

end Sys2Proof.Machine
end

