-- ==== Sys2Proof/Machine/Operands.lean ====
section
/-! DEFINITION. The operands of an operation word (30_encoding.md R92, R96) and the words a result and an
event are written as (R93, R94). -/

namespace Sys2Proof.Machine

/-- All `N_CONFIRM` samples are asserted, `s = 7` (40_scan_state_machine.md R121). -/
def allAsserted (sm : Samples) : Bool := sm.s0 && sm.s1 && sm.s2

/-- Operand `r` names a row of the matrix (30_encoding.md R96). -/
def rowInRange (c : Config) (r : BitVec 3) : Bool := decide (r.toNat < c.numRows)

/-- Operand `rows` has no bit set for a row `≥ R` (30_encoding.md R96). -/
def rowsInRange (c : Config) (rows : BitVec 5) : Bool := rows >>> c.numRows == 0#5

/-- Operand `n` names a standalone key (30_encoding.md R96). -/
def instanceInRange (c : Config) (n : BitVec 1) : Bool := decide (n.toNat < c.nSkey)

/-- The lowest row whose bit is set, if one is (41_shared_pin_arbiter.md R152). -/
def lowestRow (rows : BitVec 5) : Option Nat := (List.range 5).find? fun r => rows.getLsbD r

/-- The result `Some(code)` of RDKEY (30_encoding.md R93). -/
def someCode (k : KeyCode) : ResultWord := 0x0100#16 ||| k.setWidth 16

/-- The result `Some((row, col))` of RDRC (30_encoding.md R93; 42_power_on_latch.md R168). -/
def someRowCol (row col : U8) : ResultWord :=
  0x0100#16 ||| (row.extractLsb' 0 3).setWidth 16 <<< 4 ||| (col.extractLsb' 0 3).setWidth 16

/-- The result `None` of RDKEY and RDRC (30_encoding.md R93). -/
def noneResult : ResultWord := 0x0000#16

/-- The result of KSTATE (30_encoding.md R93). -/
def pressedResult (pressed : Bool) : ResultWord := (BitVec.ofBool pressed).setWidth 16

/-- The result of SUPP and ALT (30_encoding.md R93). -/
def codeResult (k : KeyCode) : ResultWord := k.setWidth 16

/-- The event word `evt` (30_encoding.md R94). -/
def Event.word (e : Event) : BitVec 9 := BitVec.ofBool e.pressed ++ e.code

end Sys2Proof.Machine
end

