-- ==== Sys2Proof/Machine/Ops.lean ====
section
/-! DEFINITION. The named actions the operations are made of, under the names the spec gives them (40 to 42),
the entry into a scan cycle and the return from one among them (60_exceptions.md R229, R230). -/

namespace Sys2Proof.Machine

/-- What an action of the block ends in. -/
abbrev Result := Host.Outcome State Fault Refusal

/-- One action after another; a stop of the first is the stop of both. -/
def andThen (o : Result) (f : State → Result) : Result :=
  match o with
  | .next s => f s
  | .fault e => .fault e
  | .refused e => .refused e

/-! Outputs -/

/-- No output: every operation starts so, and an ignored one ends so (20_memory.md R61, R62). -/
def State.quiet (s : State) : State := { s with out := {} }

/-- `emit(code, pressed)`: one event, after those already emitted (00_scope.md R14; 20_memory.md R70). -/
def emit (code : KeyCode) (pressed : Bool) (s : State) : State :=
  { s with out := { s.out with events := s.out.events ++ [⟨code, pressed⟩] } }

/-- `res <- v` (00_scope.md R14). -/
def answer (v : ResultWord) (s : State) : State := { s with out := { s.out with res := some v } }

/-- `peer_done`: a REQ or REL has completed (20_memory.md R60; 41_shared_pin_arbiter.md R150). -/
def signalPeer (s : State) : State := { s with out := { s.out with peerDone := true } }

/-! Configuration tables (10_state.md R43; 20_memory.md R63, R65) -/

/-- `KEYMAP[r][c]`, where the entry exists. -/
def keymapAt (c : Config) (row col : Nat) : Option KeyCode := (c.keymap[row]?).bind fun l => l[col]?

/-- Entry `i` of a capability table, `UNUSED` from `MAX_KEYS` on (43_host_queries.md R181, R182). -/
def capabilityAt (t : Vector KeyCode maxKeys) (i : Nat) : KeyCode :=
  if h : i < maxKeys then t[i] else unused

/-! The power-on latch (42_power_on_latch.md) -/

/-- `LatchCapture(row, col)` (R165). -/
def latchCapture (row col : U8) (s : State) : State :=
  match s.latch.state with
  | .armed =>
    { s with latch := { s.latch with
        state := .capturedPending, rowValid := true, row := row, colValid := true, col := col } }
  | .none | .capturedPending | .consumed => s

/-- `LatchWindowClear()` (R169). -/
def latchWindowClear (s : State) : State :=
  match s.latch.state with
  | .armed => { s with latch := { s.latch with state := .none, deadline := 0#16 } }
  | .none | .capturedPending | .consumed => s

/-- `LatchConsume()` (R167). -/
def latchConsume (s : State) : State :=
  { s with latch := { s.latch with
      state := .consumed, rowValid := false, row := 0#8, colValid := false, col := 0#8 } }

/-! The scan cycle: entry, return and the steps between (40_scan_state_machine.md) -/

/-- `C − 1`, the column a scan starts at (R121, R128). -/
def lastColumn (c : Config) : U8 := BitVec.ofNat 8 (c.numCols - 1)

/-- `EdgeEntry(r)`: entry into a scan cycle (R128; 60_exceptions.md R229). The row is saved, the cursor set,
and through `phase` the row edges are masked and the scan timer is armed. -/
def edgeEntry (r : U8) (s : State) : State :=
  { s with scan := { s.scan with
      currentRow := r, currentColumn := lastColumn s.cfg, phase := .identifyButton } }

/-- The release of the active key, if one is, and no key active any more (R125, R126). -/
def releaseActive (s : State) : State :=
  let t := if s.scan.activeValid then emit s.scan.activeCode false s else s
  { t with scan := { t.scan with activeValid := false, activeCode := 0#8 } }

/-- `ReleaseDetectedAction()`: return from a scan cycle (R126; 60_exceptions.md R230). -/
def releaseDetectedAction (s : State) : State :=
  let t := releaseActive s
  latchWindowClear { t with scan := { t.scan with phase := .idle } }

/-- `ConfirmPress()` (R122). -/
def confirmPress (s : State) : Result :=
  match keymapAt s.cfg s.scan.currentRow.toNat s.scan.currentColumn.toNat with
  | none => .fault (.noKeymapEntry s.scan.currentRow.toNat s.scan.currentColumn.toNat)
  | some k =>
    let t := emit k true { s with scan := { s.scan with activeValid := true, activeCode := k } }
    let u := latchCapture s.scan.currentRow s.scan.currentColumn t
    .next { u with scan := { u.scan with releaseStableCount := 0#16, phase := .releasePending } }

/-- `ColumnStep(s0, s1, s2)` (R121). -/
def columnStep (sm : Samples) (s : State) : Result :=
  if allAsserted sm then confirmPress s
  else if s.scan.currentColumn = 0#8 then .next (releaseDetectedAction s)
  else .next { s with scan := { s.scan with currentColumn := s.scan.currentColumn - 1#8 } }

/-- `ReleasePendingStep(s0)`; the sum is modulo 2^16 (R124, R131). -/
def releasePendingStep (s0 : Bool) (s : State) : State :=
  if s0 then { s with scan := { s.scan with releaseStableCount := 0#16 } }
  else
    let n := s.scan.releaseStableCount + 1#16
    { s with scan := { s.scan with
        releaseStableCount := n
        phase := if s.cfg.debounceTicks ≤ n then .checkForKeyChange else s.scan.phase } }

/-- `KeyChangeStep(s0)` (R125). -/
def keyChangeStep (s0 : Bool) (s : State) : State :=
  if s0 then
    let t := releaseActive s
    { t with scan := { t.scan with currentColumn := lastColumn t.cfg, phase := .identifyButton } }
  else releaseDetectedAction s

/-- `ScanStep(s0, s1, s2)` (R120). The last arm is the spec's, taken in no reachable state (log entry 8). -/
def scanStep (sm : Samples) (s : State) : Result :=
  match s.scan.phase with
  | .idle => .next s
  | .identifyButton => columnStep sm s
  | .releasePending => .next (releasePendingStep sm.s0 s)
  | .checkForKeyChange => .next (keyChangeStep sm.s0 s)
  | .releaseDetected => .next (releaseDetectedAction s)

/-! The arbiter (41_shared_pin_arbiter.md) -/

/-- `raise ArbMisuse` (R153). -/
def raiseArbMisuse (s : State) : State := { s with arb := { s.arb with arbFault := true } }

/-- `owner <- o` (R150, R151). -/
def setOwner (o : Owner) (s : State) : State := { s with arb := { s.arb with owner := o } }

/-- `LostKeypressPoll(rows, s0, s1, s2)` (R152). -/
def lostKeypressPoll (rows : BitVec 5) (sm : Samples) (s : State) : Result :=
  match lowestRow rows with
  | none => .next s
  | some r => scanStep sm (edgeEntry (BitVec.ofNat 8 r) s)

/-! The standalone keys (44_standalone_debouncer.md) -/

/-- The new state of standalone key `n`. -/
def setStandaloneKey (n : Nat) (k : StandaloneKeyState) (s : State) : State :=
  { s with skeys := s.skeys.set n k }

/-! The polled variant (45_polled_variant.md) -/

/-- The cell `(r, c)`, where it exists. -/
def cellAt (p : PolledState) (r c : Nat) : Option Cell := (p.cells[r]?).bind fun l => l[c]?

/-- The new state of the cell `(r, c)`. -/
def setCell (r c : Nat) (x : Cell) (s : State) : State :=
  { s with poll := { s.poll with cells := s.poll.cells.modify r fun l => l.set c x } }

/-- One row of PTICK's loop: `a` is the row's sample, `c` the column polled (R201). -/
def pollCell (a : Bool) (r c : Nat) (s : State) : Result :=
  match cellAt s.poll r c with
  | none => .fault (.noCell r c)
  | some x =>
    if a = x.level then .next (setCell r c { x with cnt := 0#16 } s)
    else
      let n := x.cnt + 1#16
      if s.cfg.debounceTicks ≤ n then
        match keymapAt s.cfg r c with
        | none => .fault (.noKeymapEntry r c)
        | some k =>
          let t := emit k a (setCell r c { level := a, cnt := 0#16 } s)
          .next (if a then latchCapture (BitVec.ofNat 8 r) (BitVec.ofNat 8 c) t else latchWindowClear t)
      else .next (setCell r c { x with cnt := n } s)

/-- PTICK's loop over the rows it is given, in their order (R201). -/
def pollRows (rows : BitVec 5) (c : Nat) : List Nat → State → Result
  | [], s => .next s
  | r :: rs, s => andThen (pollCell (rows.getLsbD r) r c s) (pollRows rows c rs)

/-- `poll_col <- (poll_col + 1) mod C` (R201). -/
def advancePollColumn (s : State) : State :=
  { s with poll := { s.poll with col := BitVec.ofNat 8 ((s.poll.col.toNat + 1) % s.cfg.numCols) } }

end Sys2Proof.Machine
end

