-- ==== Sys2Proof/Machine/Arbiter.lean ====
section
/-! DEFINITION. REQ and REL (41_shared_pin_arbiter.md). -/

namespace Sys2Proof.Machine

/-- REQ (R150). Misuse completes too, so `peer_done` is signalled (log entry 5). -/
def execReq (s : State) : Result :=
  match s.arb.owner with
  | .scanner => .next (setOwner .externalPeer (signalPeer s.quiet))
  | .externalPeer => .next (raiseArbMisuse (signalPeer s.quiet))

/-- REL `rows, s` (R151). The settle delay is timing, and the peer's own restoration step touches no state
of the block (log entries 14, 16). -/
def execRel (rows : BitVec 5) (sm : Samples) (s : State) : Result :=
  if rowsInRange s.cfg rows then
    match s.arb.owner with
    | .externalPeer =>
      let t := setOwner .scanner (signalPeer s.quiet)
      if !t.cfg.polled && t.scan.phase == .idle then lostKeypressPoll rows sm t else .next t
    | .scanner => .next (raiseArbMisuse (signalPeer s.quiet))
  else .refused .illegalOperand

end Sys2Proof.Machine
end

