-- ==== Sys2Proof/Machine/Latch.lean ====
section
/-! DEFINITION. WTICK, RDKEY and RDRC (42_power_on_latch.md section 2). -/

namespace Sys2Proof.Machine

/-- WTICK (R166). -/
def execWtick (s : State) : Result :=
  let t := s.quiet
  match s.latch.state with
  | .armed =>
    if s.latch.deadline ≤ 1#16 then
      .next { t with latch := { t.latch with state := .none, deadline := 0#16 } }
    else .next { t with latch := { t.latch with deadline := t.latch.deadline - 1#16 } }
  | .none | .capturedPending | .consumed => .next t

/-- RDKEY (R167). -/
def execRdkey (s : State) : Result :=
  match s.latch.state with
  | .capturedPending =>
    match keymapAt s.cfg s.latch.row.toNat s.latch.col.toNat with
    | none => .fault (.noKeymapEntry s.latch.row.toNat s.latch.col.toNat)
    | some k => .next (latchConsume (answer (someCode k) s.quiet))
  | .none | .armed | .consumed => .next (answer noneResult s.quiet)

/-- RDRC (R168). -/
def execRdrc (s : State) : Result :=
  match s.latch.state with
  | .capturedPending => .next (latchConsume (answer (someRowCol s.latch.row s.latch.col) s.quiet))
  | .none | .armed | .consumed => .next (answer noneResult s.quiet)

end Sys2Proof.Machine
end

