-- ==== Sys2Proof/Machine/Polled.lean ====
section
/-! DEFINITION. PTICK (45_polled_variant.md). -/

namespace Sys2Proof.Machine

/-- PTICK `rows` (R201). -/
def execPtick (rows : BitVec 5) (s : State) : Result :=
  if rowsInRange s.cfg rows then
    if s.cfg.polled && s.arb.owner == .scanner then
      andThen (pollRows rows s.poll.col.toNat (List.range s.cfg.numRows) s.quiet)
        fun t => .next (advancePollColumn t)
    else .next s.quiet
  else .refused .illegalOperand

end Sys2Proof.Machine
end

