-- ==== Sys2Proof/Machine/Query.lean ====
section
/-! DEFINITION. KSTATE, SUPP and ALT (43_host_queries.md). -/

namespace Sys2Proof.Machine

/-- The cell `(r, c)` maps to `k` and reads pressed (R180). -/
def cellPressed (s : State) (k : KeyCode) (r c : Nat) : Bool :=
  keymapAt s.cfg r c == some k && (cellAt s.poll r c).any fun x => x.level

/-- The debounced pressed state of `k` (R180). -/
def keyPressed (s : State) (k : KeyCode) : Bool :=
  if s.cfg.polled then
    (List.range s.cfg.numRows).any fun r => (List.range s.cfg.numCols).any fun c => cellPressed s k r c
  else s.scan.activeValid && s.scan.activeCode == k

/-- KSTATE `k` (R180). -/
def execKstate (k : KeyCode) (s : State) : Result :=
  .next (answer (pressedResult (keyPressed s k)) s.quiet)

/-- SUPP `i` (R181). -/
def execSupp (i : BitVec 5) (s : State) : Result :=
  .next (answer (codeResult (capabilityAt s.cfg.keysPresent i.toNat)) s.quiet)

/-- ALT `i` (R182). -/
def execAlt (i : BitVec 5) (s : State) : Result :=
  .next (answer (codeResult (capabilityAt s.cfg.altKeys i.toNat)) s.quiet)

end Sys2Proof.Machine
end

