-- ==== Sys2Proof/Machine/Scan.lean ====
section
/-! DEFINITION. NOP, EDGE and STEP (40_scan_state_machine.md section 2). -/

namespace Sys2Proof.Machine

/-- NOP (R127). -/
def execNop (s : State) : Result := .next s.quiet

/-- EDGE `r, s` (R128). -/
def execEdge (r : BitVec 3) (sm : Samples) (s : State) : Result :=
  if rowInRange s.cfg r then
    if irqEn s then scanStep sm (edgeEntry (r.setWidth 8) s.quiet) else .next s.quiet
  else .refused .illegalOperand

/-- STEP `s` (R129). -/
def execStep (sm : Samples) (s : State) : Result :=
  if timerArmed s then scanStep sm s.quiet else .next s.quiet

end Sys2Proof.Machine
end

