-- ==== Sys2Proof/Machine/Standalone.lean ====
section
/-! DEFINITION. SEDGE and STICK (44_standalone_debouncer.md). -/

namespace Sys2Proof.Machine

/-- SEDGE `n, lvl` (R190): the level is carried by the word and not used. -/
def execSedge (n : BitVec 1) (_lvl : Bool) (s : State) : Result :=
  if instanceInRange s.cfg n then
    match s.skeys[n.toNat]? with
    | none => .fault (.noStandaloneKey n.toNat)
    | some k =>
      if k.idle then .next (setStandaloneKey n.toNat { k with idle := false } s.quiet) else .next s.quiet
  else .refused .illegalOperand

/-- STICK `n, lvl` (R191). -/
def execStick (n : BitVec 1) (lvl : Bool) (s : State) : Result :=
  if instanceInRange s.cfg n then
    match s.skeys[n.toNat]?, s.cfg.skeys[n.toNat]? with
    | some k, some kc =>
      if k.idle then .next s.quiet
      else if lvl = k.lastLevel then .next (setStandaloneKey n.toNat { k with idle := true } s.quiet)
      else
        .next (emit kc.code (lvl == kc.active) (setStandaloneKey n.toNat { k with lastLevel := lvl } s.quiet))
    | _, _ => .fault (.noStandaloneKey n.toNat)
  else .refused .illegalOperand

end Sys2Proof.Machine
end

