-- ==== Sys2Proof/Machine/Dispatch.lean ====
section
/-! DEFINITION. The meaning of each operation, one arm per constructor. -/

namespace Sys2Proof.Machine

/-- One operation, as one atomic state transition (00_scope.md R11; 20_memory.md R61). -/
def exec (i : Instr) (s : State) : Host.Outcome State Fault Refusal :=
  match i with
  | .nop => Sys2Proof.Machine.execNop s
  | .edge r sm => Sys2Proof.Machine.execEdge r sm s
  | .step sm => Sys2Proof.Machine.execStep sm s
  | .wtick => Sys2Proof.Machine.execWtick s
  | .req => Sys2Proof.Machine.execReq s
  | .rel rows sm => Sys2Proof.Machine.execRel rows sm s
  | .rdkey => Sys2Proof.Machine.execRdkey s
  | .rdrc => Sys2Proof.Machine.execRdrc s
  | .kstate k => Sys2Proof.Machine.execKstate k s
  | .supp idx => Sys2Proof.Machine.execSupp idx s
  | .alt idx => Sys2Proof.Machine.execAlt idx s
  | .sedge n lvl => Sys2Proof.Machine.execSedge n lvl s
  | .stick n lvl => Sys2Proof.Machine.execStick n lvl s
  | .ptick rows => Sys2Proof.Machine.execPtick rows s

end Sys2Proof.Machine
end

