-- ==== Sys2Proof/Machine/Ports.lean ====
section
/-! DEFINITION. The ports: how a strobe and the pin levels read for it become an operation word
(20_memory.md R60, R62, R67), and how the next input is taken (R61; 70_reset_and_hazards.md R250, R253). -/

namespace Sys2Proof.Machine

/-- A sample of a row pin: the level is the asserted one (20_memory.md R67; 00_scope.md R15). -/
def sampleOf (c : Config) (level : Bool) : Bool := level == c.rowActiveLevel

/-- One sample of row `r`, from the levels of the row pins (R67). -/
def sampleRow (c : Config) (r : Nat) (levels : BitVec 5) : Bool := sampleOf c (levels.getLsbD r)

/-- Three samples of row `r` (R67). -/
def samplesOfRow (c : Config) (r : Nat) (l0 l1 l2 : BitVec 5) : Samples :=
  ⟨sampleRow c r l0, sampleRow c r l1, sampleRow c r l2⟩

/-- Every row of the matrix sampled once: bit `r` for row `r`, zero for `r ≥ R` (30_encoding.md R92). -/
def sampleRows (c : Config) (levels : BitVec 5) : BitVec 5 :=
  (if c.rowActiveLevel then levels else ~~~levels) &&& BitVec.ofNat 5 (2 ^ c.numRows - 1)

/-- The samples STEP carries, of row `current_row`: all three in `IdentifyButton`, `s0` alone elsewhere
(20_memory.md R62; 40_scan_state_machine.md R132). -/
def scanTickSamples (s : State) (l0 l1 l2 : BitVec 5) : Samples :=
  let r := s.scan.currentRow.toNat
  match s.scan.phase with
  | .identifyButton => samplesOfRow s.cfg r l0 l1 l2
  | .releasePending | .checkForKeyChange | .idle | .releaseDetected => ⟨sampleRow s.cfg r l0, false, false⟩

/-- The samples REL carries, of the lowest asserted row: all 0 when no row is asserted or the phase is not
`Idle` (20_memory.md R62; 40_scan_state_machine.md R132). -/
def relSamples (s : State) (levels l0 l1 l2 : BitVec 5) : Samples :=
  if s.scan.phase = .idle then
    match lowestRow (sampleRows s.cfg levels) with
    | some r => samplesOfRow s.cfg r l0 l1 l2
    | none => .released
  else .released

/-- Column `c` is selected while every row is read once, for REL's `rows` and for PTICK: `ColPattern` as it
stands (20_memory.md R68; 10_state.md R30), which is every column where REL's `rows` is used. DESIGN CHOICE,
unsafe for a claim about these columns (log entry 18): the same where REL ignores it, though 20_memory.md R62
says every column. -/
def rowsReadUnder (s : State) (c : Nat) : Bool := colPattern s c

/-- The rows PTICK carries: every row sampled once while the scanner owns the pins (20_memory.md R62), and no
sample, every bit 0, under the peer (R67; 41_shared_pin_arbiter.md R154; log entry 12). -/
def pollTickRows (s : State) (levels : BitVec 5) : BitVec 5 :=
  match s.arb.owner with
  | .scanner => sampleRows s.cfg levels
  | .externalPeer => 0#5

/-- Column `c` is selected while the row of a strobe is sampled: for an edge, and for REL's three samples in
`Idle`, the pattern after `EdgeEntry`, which selects the last column, else the pattern as it stands
(40_scan_state_machine.md R132; 20_memory.md R62). A strobe that samples no row selects none for it: no sample
is taken where the guard on the source is false or, but for REL, under the peer (R67;
41_shared_pin_arbiter.md R154). DESIGN CHOICE, unsafe for a claim about these columns (log entry 18): REL's samples where it ignores them, that is none
in mid-cycle, and `poll_col` with `POLLED = 1`, though 20_memory.md R62 says column `C−1`. -/
def sampledUnder (s : State) (c : Nat) : Strobe → Bool
  | .rowEdge r _ _ _ => irqEn s && rowInRange s.cfg r && colPattern (edgeEntry (r.setWidth 8) s) c
  | .scanTick _ _ _ => timerArmed s && colPattern s c
  | .peerRel levels _ _ _ =>
    s.scan.phase == .idle &&
      (lowestRow (sampleRows s.cfg levels)).any fun r => colPattern (edgeEntry (BitVec.ofNat 8 r) s) c
  | .pollTick _ => s.cfg.polled && s.arb.owner == .scanner && rowsReadUnder s c
  | .winTick | .peerReq | .query _ _ | .skeyEdge _ _ | .skeyTick _ _ => false

/-- The word that follows where the strobe's source delivers it. -/
def delivered (guard : Bool) (w : OpWord) : Option OpWord := if guard then some w else none

/-- The operation word of a strobe; none where the guard on its source is false or its pin does not exist
(20_memory.md R62; 30_encoding.md R96; log entry 12). -/
def strobeWord (s : State) : Strobe → Option OpWord
  | .rowEdge r l0 l1 l2 =>
    delivered (irqEn s && rowInRange s.cfg r) (encode (.edge r (samplesOfRow s.cfg r.toNat l0 l1 l2)))
  | .scanTick l0 l1 l2 => delivered (timerArmed s) (encode (.step (scanTickSamples s l0 l1 l2)))
  | .winTick => some (encode .wtick)
  | .peerReq => some (encode .req)
  | .peerRel levels l0 l1 l2 =>
    some (encode (.rel (sampleRows s.cfg levels) (relSamples s levels l0 l1 l2)))
  | .query op arg => some (op ++ arg)
  | .skeyEdge n lvl => delivered (skIrqEn s n.toNat) (encode (.sedge n lvl))
  | .skeyTick n lvl => delivered (skTimerArmed s n.toNat) (encode (.stick n lvl))
  | .pollTick levels => delivered s.cfg.polled (encode (.ptick (pollTickRows s levels)))

/-- The block while `rst = 1`: every field at its reset value (70_reset_and_hazards.md R250). -/
def State.held (s : State) : State :=
  { State.resetOf s.cfg with rst := true, inputs := s.inputs }

/-- What the next input comes to. -/
inductive Fetched where
  /-- No operation: the block is in this state. -/
  | settled (s : State)
  /-- This operation word, to be executed in this state. -/
  | operation (w : OpWord) (s : State)
  /-- An input outside the spec. -/
  | outside (r : Refusal)
  deriving Repr

/-- The reset input takes a level (70_reset_and_hazards.md R250, R254; log entry 10). -/
def driveRst (level : Bool) (s : State) : State :=
  if level then s.held
  else if s.rst then { State.resetOf s.cfg with inputs := s.inputs }
  else s.quiet

/-- A word that arrives while `rst = 1`: an operation is ignored (70_reset_and_hazards.md R250), and an illegal
word, which is no operation, is refused as at any other time (30_encoding.md R96). -/
def takeInReset (w : OpWord) (s : State) : Fetched :=
  match decode w with
  | .error e => .outside (.illegalWord e)
  | .ok i => if i.wf s.cfg then .settled s.held else .outside .illegalOperand

/-- A word at the operation port, whoever put it there. -/
def takeWord (w : OpWord) (s : State) : Fetched := if s.rst then takeInReset w s else .operation w s

/-- The block as it stands while no operation comes: at its reset values under `rst = 1`, else as it was. -/
def State.settle (s : State) : State := if s.rst then s.held else s.quiet

/-- The configuration inputs take these values: a change only while `rst = 1`, and to legal values
(20_memory.md R74; 70_reset_and_hazards.md R253). While `rst = 0` a change is outside the spec (R269); the values
already held are no change, and nothing happens (DEDUCED; log entry 11). -/
def reconfigure (c : Config) (s : State) : Fetched :=
  if s.rst then
    if c.wf then .settled { s with cfg := c }.held else .outside .illegalConfiguration
  else if c = s.cfg then .settled s.settle
  else .outside .configurationChanged

/-- One input in the state it finds. -/
def accept (s : State) : Input → Fetched
  | .word w => takeWord w s
  | .strobe st =>
    match strobeWord s.settle st with
    | none => .settled s.settle
    | some w => takeWord w s
  | .rst level => .settled (driveRst level s)
  | .configure c => reconfigure c s

/-- The next input is taken; with none waiting the block does nothing (70_reset_and_hazards.md R251). -/
def fetch (s : State) : Fetched :=
  match s.inputs with
  | [] => .settled s.settle
  | i :: rest => accept { s with inputs := rest } i

end Sys2Proof.Machine
end

