-- ==== Sys2Proof/Machine/Step.lean ====
section
/-! DEFINITION. One step of the block: the next input is taken, and the operation word it comes to, if any,
is decoded and executed (20_memory.md R61; 30_encoding.md R96). -/

namespace Sys2Proof.Machine

/-- One step. An illegal word is refused, never treated as NOP (30_encoding.md R96). -/
def step (s : State) : Host.Outcome State Fault Refusal :=
  match fetch s with
  | .settled t => .next t
  | .outside r => .refused r
  | .operation w t =>
    match decode w with
    | .error e => .refused (.illegalWord e)
    | .ok i => exec i t

/-- `s` with the instruction whose bits are `w` as its next input, and `rst` released, so that the very next
step runs it. The program is the list of inputs, which the outside supplies (log entry 3). -/
def State.withFetchWord (s : State) (nbits w : Nat) : State :=
  { s with inputs := .word (tableWord nbits w) :: s.inputs, rst := false }

end Sys2Proof.Machine
end

