-- ==== Sys2Proof/Safety.lean ====
section
/-! DEFINITION. The terms claims are made in: the invariant of reachable states (10_state.md R48), what a
faulted state is (41_shared_pin_arbiter.md R153), and sequences of operations with what they report. -/

namespace Sys2Proof.Machine

/-- A faulted state: the arbiter has been misused (R153). The rules still define what the block does from here,
and so does the model, but a claim carries the premise `¬ Faulted` (93_implementation_defined.md U1; log entry
6). -/
abbrev Faulted (s : State) : Prop := s.arb.arbFault = true

/-- The key whose press has been reported and whose release has not (10_state.md R24). -/
def activeKey (s : State) : Option KeyCode :=
  if s.scan.activeValid then some s.scan.activeCode else none

/-- What holds of every state that reset and legal operations reach (10_state.md R48), with the shape of the
indexed state (R34, R36), the stored form of the options (R24, R32), and the two variants (R36). -/
structure Invariant (s : State) : Prop where
  /-- The configuration is legal (R40). -/
  configLegal : s.cfg.wf = true
  /-- One standalone state per standalone key (R34). -/
  keyCount : s.skeys.length = s.cfg.nSkey
  /-- One cell per matrix position (R36). -/
  cellRows : s.poll.cells.length = s.cfg.numRows
  cellCols : ∀ l ∈ s.poll.cells, l.length = s.cfg.numCols
  /-- `poll_col` is `0 .. C−1`, and no cell's count has reached the threshold (R36; 45 R201). -/
  pollColumn : s.poll.col.toNat < s.cfg.numCols
  cellCounts : ∀ l ∈ s.poll.cells, ∀ x ∈ l, x.cnt < s.cfg.debounceTicks
  /-- R48 item 1. -/
  restingPhase : s.scan.phase ≠ .releaseDetected
  /-- R48 item 2. -/
  activePhase :
    s.scan.activeValid = true ↔ s.scan.phase = .releasePending ∨ s.scan.phase = .checkForKeyChange
  /-- The active code is the one `KEYMAP` gave at the press, and 0 when there is none (R24). -/
  activeFromKeymap : s.scan.activeValid = true →
    keymapAt s.cfg s.scan.currentRow.toNat s.scan.currentColumn.toNat = some s.scan.activeCode
  noActiveCode : s.scan.activeValid = false → s.scan.activeCode = 0#8
  /-- R48 item 3. -/
  cursorRow : s.scan.currentRow.toNat < s.cfg.numRows
  cursorColumn : s.scan.currentColumn.toNat < s.cfg.numCols
  /-- R48 item 4. -/
  countBound : s.scan.releaseStableCount ≤ s.cfg.debounceTicks
  countPending : s.scan.phase = .releasePending → s.scan.releaseStableCount < s.cfg.debounceTicks
  /-- R48 item 5. -/
  latchRowValid : s.latch.rowValid = true ↔ s.latch.state = .capturedPending
  latchColValid : s.latch.colValid = true ↔ s.latch.state = .capturedPending
  /-- A captured cell is a cell of the matrix, and the fields are 0 when there is none (R32; R48 item 8). -/
  latchCell : s.latch.state = .capturedPending →
    s.latch.row.toNat < s.cfg.numRows ∧ s.latch.col.toNat < s.cfg.numCols
  latchEmpty : s.latch.state ≠ .capturedPending → s.latch.row = 0#8 ∧ s.latch.col = 0#8
  /-- R48 item 6. -/
  windowOpen : s.latch.state = .armed → 1#16 ≤ s.latch.deadline
  /-- With `POLLED = 1` ScanState keeps its reset value (R36). -/
  polledScan : s.cfg.polled = true → s.scan = .reset
  /-- With `POLLED = 0` the polled variant's state keeps its reset value (R36; log entry 13). -/
  unpolledCells : s.cfg.polled = false → s.poll = .reset s.cfg
  /-- While `rst = 1` every field holds its reset value (70_reset_and_hazards.md R250). -/
  heldInReset : s.rst = true → s = s.held

/-- What a sequence of operations reports: each operation with the events it emitted. -/
abbrev Log := List (Instr × List Event)

/-- A sequence of operations, each completing: the last state and the log; none where one stops. -/
def runOps : List Instr → State → Option (State × Log)
  | [], s => some (s, [])
  | i :: is, s =>
    match exec i s with
    | .next t => (runOps is t).map fun p => (p.1, (i, t.out.events) :: p.2)
    | .fault _ => none
    | .refused _ => none

/-- The operation belongs to standalone key `n`'s debounce timer. -/
def isStick (n : BitVec 1) : Instr → Bool
  | .stick m _ => m == n
  | .nop | .edge _ _ | .step _ | .wtick | .req | .rel _ _ | .rdkey | .rdrc | .kstate _ | .supp _ | .alt _
  | .sedge _ _ | .ptick _ => false

/-- The events of a log that the matrix scanner emitted: all but those of the standalone keys. -/
def matrixEvents (l : Log) : List Event :=
  (l.filter fun p => !(isStick 0#1 p.1 || isStick 1#1 p.1)).flatMap fun p => p.2

/-- The events of a log that standalone key `n` emitted. -/
def standaloneEvents (n : BitVec 1) (l : Log) : List Event :=
  (l.filter fun p => isStick n p.1).flatMap fun p => p.2

/-- The events alternate, a press and then the release of the same key, beginning with the release of `held`
where a key is held; the answer is the key held after them, or none where they do not alternate. -/
def alternate : Option KeyCode → List Event → Option (Option KeyCode)
  | held, [] => some held
  | none, e :: es => if e.pressed then alternate (some e.code) es else none
  | some k, e :: es => if e = ⟨k, false⟩ then alternate none es else none

end Sys2Proof.Machine
end

