-- ==== Sys2Proof/Certificates/Slice0/Obligations.lean ====
section
/-! DEFINITION. The statements about the model. The first part fixes the words they use, written from the
spec's rules and not from the model's definitions; the second part states. `s` is always every state that
meets the premises written, so every configuration too. Every statement about a state has the premise that the
arbiter has not been misused, `¬ Faulted` (93_implementation_defined.md U1; 41_shared_pin_arbiter.md R153), for a
run its last state, since no operation clears the flag; without it stand only what is said of reset, which clears
the flag, and of the flag itself (log entry 6). -/

namespace Sys2Proof.Claims

open Sys2Proof.Machine

/-- What LatchCapture leaves of a latch (42_power_on_latch.md R165). -/
def captured (row col : U8) (l : PowerOnLatch) : PowerOnLatch :=
  if l.state = .armed then
    { l with state := .capturedPending, rowValid := true, row := row, colValid := true, col := col }
  else l

/-- What LatchWindowClear leaves of a latch (R169). -/
def windowCleared (l : PowerOnLatch) : PowerOnLatch :=
  if l.state = .armed then { l with state := .none, deadline := 0#16 } else l

/-- What LatchConsume leaves of a latch (R167). -/
def consumed (l : PowerOnLatch) : PowerOnLatch :=
  { l with state := .consumed, rowValid := false, row := 0#8, colValid := false, col := 0#8 }

/-- The state after the press of `k` is confirmed at `(row, col)`: reported, latched where the window is
open, and waiting for the release (40_scan_state_machine.md R122). -/
def afterPress (s : State) (row col : U8) (k : KeyCode) : State :=
  { s with
    scan := { phase := .releasePending, currentColumn := col, currentRow := row,
              activeValid := true, activeCode := k, releaseStableCount := 0#16 }
    latch := captured row col s.latch
    out := { events := [⟨k, true⟩] } }

/-- The scanner runs the interrupt-driven variant and owns the pins. -/
def ScannerOwns (s : State) : Prop := s.cfg.polled = false ∧ s.arb.owner = .scanner

/-- The scan timer is armed in phase `p` (10_state.md R29). -/
def ArmedIn (p : Phase) (s : State) : Prop := ScannerOwns s ∧ s.scan.phase = p

/-- A cell with sample `a` is reported on this poll (45_polled_variant.md R201). -/
def reported (c : Config) (a : Bool) (x : Cell) : Bool :=
  a != x.level && decide (c.debounceTicks ≤ x.cnt + 1#16)

/-- A cell after a poll with sample `a` (R201). -/
def polledCell (c : Config) (a : Bool) (x : Cell) : Cell :=
  if a = x.level then { x with cnt := 0#16 }
  else if c.debounceTicks ≤ x.cnt + 1#16 then { level := a, cnt := 0#16 }
  else { x with cnt := x.cnt + 1#16 }

/-- Row `r`'s cell in the column polled is reported. -/
def rowReported (s : State) (rows : BitVec 5) (r : Nat) : Bool :=
  (cellAt s.poll r s.poll.col.toNat).any (reported s.cfg (rows.getLsbD r))

/-- The event row `r` gives in the column polled, if it gives one. -/
def rowEvent (s : State) (rows : BitVec 5) (r : Nat) : Option Event :=
  if rowReported s rows r then
    (keymapAt s.cfg r s.poll.col.toNat).map fun k => ⟨k, rows.getLsbD r⟩
  else none

/-- The latch after a poll: the first report decides, since after it the latch is not armed. -/
def polledLatch (s : State) (rows : BitVec 5) : PowerOnLatch :=
  match (List.range s.cfg.numRows).find? (rowReported s rows) with
  | none => s.latch
  | some r =>
    if rows.getLsbD r then captured (BitVec.ofNat 8 r) s.poll.col s.latch else windowCleared s.latch

/-- The operation is one of the five queries (30_encoding.md R93). -/
def isQuery : Instr → Bool
  | .rdkey | .rdrc | .kstate _ | .supp _ | .alt _ => true
  | .nop | .edge _ _ | .step _ | .wtick | .req | .rel _ _ | .sedge _ _ | .stick _ _ | .ptick _ => false

/-- The operation samples the matrix: EDGE, STEP or PTICK. -/
def isSampling : Instr → Bool
  | .edge _ _ | .step _ | .ptick _ => true
  | .nop | .wtick | .req | .rel _ _ | .rdkey | .rdrc | .kstate _ | .supp _ | .alt _ | .sedge _ _
  | .stick _ _ => false

/-- The operation is REL. -/
def isRel : Instr → Bool
  | .rel _ _ => true
  | .nop | .edge _ _ | .step _ | .wtick | .req | .rdkey | .rdrc | .kstate _ | .supp _ | .alt _ | .sedge _ _
  | .stick _ _ | .ptick _ => false

/-- The operation is REQ or REL. -/
def isArbiter : Instr → Bool
  | .req | .rel _ _ => true
  | .nop | .edge _ _ | .step _ | .wtick | .rdkey | .rdrc | .kstate _ | .supp _ | .alt _ | .sedge _ _
  | .stick _ _ | .ptick _ => false

/-- The operations of one scan: EDGE of row `r` with the first samples, then a STEP for each of the others. -/
def scanWith (r : BitVec 3) : List Samples → List Instr
  | [] => []
  | sm :: sms => .edge r sm :: sms.map .step

/-- Strict alternation of REQ and REL from an owner on: the owner it leaves, none where it is broken
(41_shared_pin_arbiter.md R155). -/
def properUse : Owner → List Instr → Option Owner
  | o, [] => some o
  | .scanner, .req :: is => properUse .externalPeer is
  | .externalPeer, .req :: _ => none
  | .externalPeer, .rel _ _ :: is => properUse .scanner is
  | .scanner, .rel _ _ :: _ => none
  | o, _ :: is => properUse o is

/-- A word no row of the opcode map matches, or one with an operand out of range (30_encoding.md R96). -/
def Illegal (c : Config) (w : OpWord) : Prop :=
  (∀ row ∈ opcodeMap, w &&& row.mask ≠ row.pattern) ∨ ∃ i, decode w = .ok i ∧ i.wf c = false

/-- Row `r`'s pin, in one reading of the row pins, is at the asserted level (20_memory.md R67). -/
def rowAsserted (c : Config) (r : Nat) (levels : BitVec 5) : Bool :=
  decide (levels.getLsbD r = c.rowActiveLevel)

/-- Three samples of row `r` from three readings of the row pins, in time order (R67). -/
def rowSamples (c : Config) (r : Nat) (l0 l1 l2 : BitVec 5) : Samples :=
  ⟨rowAsserted c r l0, rowAsserted c r l1, rowAsserted c r l2⟩

/-- `rows` is every row of the matrix sampled once, and 0 for the rows from `R` on (30_encoding.md R92). -/
def RowsRead (c : Config) (levels rows : BitVec 5) : Prop :=
  ∀ q < 5, rows.getLsbD q = (decide (q < c.numRows) && rowAsserted c q levels)

/-- `r` is the lowest row whose bit is set. -/
def IsLowest (rows : BitVec 5) (r : Nat) : Prop := rows.getLsbD r = true ∧ ∀ q < r, rows.getLsbD q = false

/-- The word the block makes of a strobe, strobe by strobe: the guard on the source, the operation, the row
sampled and the samples carried (20_memory.md R62, R67; 40_scan_state_machine.md R132). -/
def StrobeMakes (s : State) (w : Option OpWord) : Strobe → Prop
  | .rowEdge r l0 l1 l2 =>
    w = if irqEn s = true ∧ r.toNat < s.cfg.numRows then
      some (encode (.edge r (rowSamples s.cfg r.toNat l0 l1 l2))) else none
  | .scanTick l0 l1 l2 =>
    w = if timerArmed s = true then
      some (encode (.step
        (if s.scan.phase = .identifyButton then rowSamples s.cfg s.scan.currentRow.toNat l0 l1 l2
         else ⟨rowAsserted s.cfg s.scan.currentRow.toNat l0, false, false⟩))) else none
  | .winTick => w = some (encode .wtick)
  | .peerReq => w = some (encode .req)
  | .peerRel levels l0 l1 l2 =>
    ∃ rows sm, w = some (encode (.rel rows sm)) ∧ RowsRead s.cfg levels rows ∧
      (rows = 0#5 ∨ s.scan.phase ≠ .idle → sm = ⟨false, false, false⟩) ∧
      (s.scan.phase = .idle → ∀ r, IsLowest rows r → sm = rowSamples s.cfg r l0 l1 l2)
  | .query op arg => w = some (op ++ arg)
  | .skeyEdge n lvl => w = if skIrqEn s n.toNat = true then some (encode (.sedge n lvl)) else none
  | .skeyTick n lvl => w = if skTimerArmed s n.toNat = true then some (encode (.stick n lvl)) else none
  | .pollTick levels =>
    if s.cfg.polled = true then
      ∃ rows, w = some (encode (.ptick rows)) ∧ (s.arb.owner = .scanner → RowsRead s.cfg levels rows) ∧
        (s.arb.owner = .externalPeer → rows = 0#5)
    else w = none

/-- The columns selected while a strobe's row is sampled (40_scan_state_machine.md R132; 20_memory.md R62): the
last one for an edge and for REL's three samples, `current_column` or every one for a scan tick by its phase,
`poll_col` for a poll tick; and every column while REL in `Idle` reads all rows. None is selected for an edge, a
scan tick or a poll tick that takes no sample (20_memory.md R67; 41_shared_pin_arbiter.md R154). Where REL ignores what it reads
the columns are the model's choice (log entry 18). -/
def SampledColumns (s : State) (st : Strobe) : Prop :=
  match st with
  | .rowEdge r _ _ _ => ∀ c, (sampledUnder s c st = true ↔
    irqEn s = true ∧ r.toNat < s.cfg.numRows ∧ c = s.cfg.numCols - 1)
  | .scanTick _ _ _ => ∀ c, (sampledUnder s c st = true ↔
    timerArmed s = true ∧ (s.scan.phase = .checkForKeyChange ∨ c = s.scan.currentColumn.toNat))
  | .peerRel levels _ _ _ =>
    (s.scan.phase = .idle → ∀ rows, RowsRead s.cfg levels rows → rows ≠ 0#5 →
      ∀ c, (sampledUnder s c st = true ↔
        c = if s.cfg.polled = true then s.poll.col.toNat else s.cfg.numCols - 1)) ∧
    (s.scan.phase ≠ .idle → ∀ c, sampledUnder s c st = false) ∧
    (s.scan.phase = .idle → s.cfg.polled = false → ∀ c, rowsReadUnder s c = true)
  | .pollTick _ => ∀ c, (sampledUnder s c st = true ↔
    s.cfg.polled = true ∧ s.arb.owner = .scanner ∧ c = s.poll.col.toNat)
  | .winTick | .peerReq | .query _ _ | .skeyEdge _ _ | .skeyTick _ _ => ∀ c, sampledUnder s c st = false

/-- The key standalone key `n` has last been reported as holding (44_standalone_debouncer.md R191). -/
def standaloneHeld (kc : StandaloneKeyConfig) (k : StandaloneKeyState) : Option KeyCode :=
  if k.lastLevel = kc.active then some kc.code else none

/-- One row of the phase table with the matrix events it gives (40_scan_state_machine.md R130). -/
def Goes (t : State) (p : Phase) (events : List Event) : Prop := t.scan.phase = p ∧ t.out.events = events

/-- The rows of the phase table for a scan entered on row `r` from `Idle` (R130, rows 1 to 3). -/
def EntryRows (s t : State) (r : Nat) (sm : Samples) : Prop :=
  if sm = ⟨true, true, true⟩ then
    ∃ k, keymapAt s.cfg r (s.cfg.numCols - 1) = some k ∧ Goes t .releasePending [⟨k, true⟩]
  else if 1 < s.cfg.numCols then Goes t .identifyButton []
  else Goes t .idle []

/-- The rows of the phase table for an armed STEP (R130, rows 5 to 11). -/
def StepRows (s t : State) (sm : Samples) : Prop :=
  match s.scan.phase with
  | .idle => Goes t .idle []
  | .identifyButton =>
    if sm = ⟨true, true, true⟩ then
      ∃ k, keymapAt s.cfg s.scan.currentRow.toNat s.scan.currentColumn.toNat = some k ∧
        Goes t .releasePending [⟨k, true⟩]
    else if 0#8 < s.scan.currentColumn then Goes t .identifyButton []
    else Goes t .idle []
  | .releasePending =>
    if sm.s0 then Goes t .releasePending []
    else if s.scan.releaseStableCount.toNat + 1 < s.cfg.debounceTicks.toNat then Goes t .releasePending []
    else Goes t .checkForKeyChange []
  | .checkForKeyChange =>
    Goes t (if sm.s0 then .identifyButton else .idle) [⟨s.scan.activeCode, false⟩]
  | .releaseDetected => True

/-- The phase table, whole, for `POLLED = 0` (R130). -/
def PhaseTable (s t : State) (i : Instr) : Prop :=
  match i with
  | .edge r sm =>
    if s.arb.owner = .scanner ∧ s.scan.phase = .idle then EntryRows s t r.toNat sm
    else Goes t s.scan.phase []
  | .step sm => if s.arb.owner = .scanner then StepRows s t sm else Goes t s.scan.phase []
  | .rel rows sm =>
    if s.arb.owner = .externalPeer ∧ s.scan.phase = .idle ∧ rows ≠ 0#5 then
      ∃ r, rows.getLsbD r = true ∧ (∀ q < r, rows.getLsbD q = false) ∧ EntryRows s t r sm
    else Goes t s.scan.phase []
  | .ptick _ => Goes t s.scan.phase []
  | .nop | .wtick | .req | .rdkey | .rdrc | .kstate _ | .supp _ | .alt _ => Goes t s.scan.phase []
  | .sedge _ _ | .stick _ _ => t.scan.phase = s.scan.phase

/-- The operation ends a cycle in `ReleaseDetected` (40_scan_state_machine.md R121, R125, R126): an accepted edge
or a poll that fails the only column, a column step that fails column 0, or a key-change step on a released
sample. -/
def EndsCycle (s : State) : Instr → Prop
  | .edge _ sm => ArmedIn .idle s ∧ s.cfg.numCols = 1 ∧ sm ≠ ⟨true, true, true⟩
  | .step sm =>
    ArmedIn .identifyButton s ∧ s.scan.currentColumn = 0#8 ∧ sm ≠ ⟨true, true, true⟩ ∨
      ArmedIn .checkForKeyChange s ∧ sm.s0 = false
  | .rel rows sm =>
    s.cfg.polled = false ∧ s.arb.owner = .externalPeer ∧ s.scan.phase = .idle ∧ rows ≠ 0#5 ∧
      s.cfg.numCols = 1 ∧ sm ≠ ⟨true, true, true⟩
  | .nop | .wtick | .req | .rdkey | .rdrc | .kstate _ | .supp _ | .alt _ | .sedge _ _ | .stick _ _
  | .ptick _ => False

/-- The latch's cell is the one whose press the operation confirms: the cell under the cursor, or in the polled
variant a cell of the column polled that a poll tick reports pressed (42_power_on_latch.md R165). -/
def LatchesThePress (s t : State) (i : Instr) : Prop :=
  if s.cfg.polled = true then
    ∃ rows, i = .ptick rows ∧ t.latch.col = s.poll.col ∧ rowReported s rows t.latch.row.toNat = true ∧
      rows.getLsbD t.latch.row.toNat = true
  else t.latch.row = t.scan.currentRow ∧ t.latch.col = t.scan.currentColumn

/-- The causes that move the latch (42_power_on_latch.md R170), and those of a poll tick, whose first report
decides (45_polled_variant.md R201). -/
def LatchCause (s t : State) (i : Instr) : Prop :=
  match s.latch.state, t.latch.state with
  | .armed, .capturedPending =>
    LatchesThePress s t i ∧
      ∃ k, keymapAt s.cfg t.latch.row.toNat t.latch.col.toNat = some k ∧
        t.out.events.head? = some ⟨k, true⟩
  | .armed, .none =>
    (i = .wtick ∧ s.latch.deadline ≤ 1#16) ∨ (EndsCycle s i ∧ t.scan.phase = .idle) ∨
      (∃ rows, i = .ptick rows) ∧ ∃ k, t.out.events.head? = some ⟨k, false⟩
  | .capturedPending, .consumed => i = .rdkey ∨ i = .rdrc
  | a, b => a = b

end Sys2Proof.Claims

open Sys2Proof Sys2Proof.Machine Sys2Proof.Claims

/-! The operation word -/

/-- Decoding the word of an operation gives it back, for every operation with every operand
(30_encoding.md R91, R92, R95). -/
def Obligations.DecodeOfEncode : Prop := ∀ i : Instr, decode (encode i) = .ok i

/-- A word that decodes is the word of what it decodes to: no bit is dropped (R91, R96). -/
def Obligations.EncodeOfDecode : Prop := ∀ (w : OpWord) (i : Instr), decode w = .ok i → encode i = w

/-- A word decodes to an operation of a row if and only if it matches the row (R95). -/
def Obligations.DecodeFollowsTheOpcodeMap : Prop :=
  ∀ (w : OpWord), ∀ row ∈ opcodeMap,
    (w &&& row.mask = row.pattern ↔ ∃ i, decode w = .ok i ∧ i.mnemonic = row.mnemonic)

/-- Words written out from the format tables decode to the operations they stand for (R91, R98). -/
def Obligations.DecodeOfWrittenWords : Prop :=
  decode 0b0001001000000111#16 = .ok (.edge 2 ⟨true, true, true⟩) ∧
  decode 0b0010000000000101#16 = .ok (.step ⟨true, false, true⟩) ∧
  decode 0b0101000001000111#16 = .ok (.rel 0b00100 ⟨true, true, true⟩) ∧
  decode 0b1000000000110010#16 = .ok (.kstate 0x32) ∧
  decode 0b1011000100000001#16 = .ok (.sedge 1 true) ∧
  decode 0b1101000000100000#16 = .ok (.ptick 0b00010)

/-- A word is refused if and only if it is illegal; a legal word never is (R96). That this holds in reset too,
where R250 ignores operations, is the model's reading (log entry 9), and so is that the query port carries a word
with any opcode as it stands (log entry 12). -/
def Obligations.ExactlyIllegalWordsAreRefused : Prop :=
  ∀ (s : State) (w : OpWord) (rest : List Input),
    ¬ Faulted s →
    s.inputs = .word w :: rest ∨ (∃ op arg, s.inputs = .strobe (.query op arg) :: rest ∧ w = op ++ arg) →
    ((∃ why, step s = .refused why) ↔ Illegal s.cfg w)

/-! One step -/

/-- Step takes the next word and runs the operation it decodes to, on the state without that input. -/
def Obligations.StepRunsTheDecodedOperation : Prop :=
  ∀ (s : State) (w : OpWord) (rest : List Input) (i : Instr),
    ¬ Faulted s → s.inputs = .word w :: rest → s.rst = false → decode w = .ok i →
    step s = exec i { s with inputs := rest }

/-- With nothing waiting the block does nothing; only the outputs of the last operation are gone. That a step
without an input is a step at all is the model's form (log entry 2). -/
def Obligations.StepWaitsForAnInput : Prop :=
  ∀ s : State, ¬ Faulted s → s.inputs = [] → s.rst = false → step s = .next { s with out := {} }

/-- Every strobe makes the word R62 gives it, with its guard, its row and its samples, taken under the columns
R132 gives; a step runs that word (20_memory.md R62, R67; 40_scan_state_machine.md R132). That a strobe its
source does not deliver is a step without an operation, that `row_edge` of a missing row is not delivered, that
a query carries its port as it stands, and that a poll strobe under the peer carries rows 0 are the model's own
(log entries 2, 12), and so are the columns under which REL reads what it ignores (log entry 18). -/
def Obligations.StepTurnsAStrobeIntoItsWord : Prop :=
  ∀ (s : State) (st : Strobe), ¬ Faulted s →
    StrobeMakes s (strobeWord s st) st ∧ (Invariant s → SampledColumns s st) ∧
    ∀ rest, s.inputs = .strobe st :: rest → s.rst = false →
      (strobeWord s st = none → step s = .next { s with inputs := rest, out := {} }) ∧
      (∀ w i, strobeWord s st = some w → decode w = .ok i → step s = exec i { s with inputs := rest })

/-- The word made of a strobe of an existing pin is legal (20_memory.md R62; 30_encoding.md R96). A host
query carries whatever the query port carries. -/
def Obligations.StrobesMakeLegalWords : Prop :=
  ∀ (s : State) (st : Strobe) (w : OpWord), ¬ Faulted s → Invariant s → strobeWord s st = some w →
    (∃ op arg, st = .query op arg) ∨ ∃ i, decode w = .ok i ∧ i.wf s.cfg = true

/-! Reset -/

/-- The reset value of every field and derived flag (10_state.md R50). -/
def Obligations.ResetLeavesTheStatedValues : Prop :=
  ∀ c : Config,
    (State.resetOf c).scan = { phase := .idle, currentColumn := 0#8, currentRow := 0#8, activeValid := false,
                               activeCode := 0#8, releaseStableCount := 0#16 } ∧
    (State.resetOf c).arb = { owner := .scanner, arbFault := false } ∧
    (State.resetOf c).latch =
      { state := if 0#16 < c.powerOnWindowTicks then .armed else .none, rowValid := false, row := 0#8,
        colValid := false, col := 0#8, deadline := c.powerOnWindowTicks } ∧
    (∀ (n : Nat) (kc : StandaloneKeyConfig), c.skeys[n]? = some kc →
      (State.resetOf c).skeys[n]? = some ({ lastLevel := !kc.active, idle := true } : StandaloneKeyState)) ∧
    (State.resetOf c).poll.col = 0#8 ∧
    (∀ r < c.numRows, ∀ k < c.numCols,
      cellAt (State.resetOf c).poll r k = some ({ level := false, cnt := 0#16 } : Cell)) ∧
    irqEn (State.resetOf c) = !c.polled ∧ timerArmed (State.resetOf c) = false ∧
    colDriveEn (State.resetOf c) = true ∧
    (∀ k, colPattern (State.resetOf c) k = if c.polled then k == 0 else true) ∧
    (∀ n < c.nSkey, skIrqEn (State.resetOf c) n = true ∧ skTimerArmed (State.resetOf c) n = false)

/-- Raising `rst` returns every field to its reset value from any state, without an event; while it is high
every operation and strobe is ignored; the first operation after it falls sees the reset state
(70_reset_and_hazards.md R250, R254). An illegal word, as it stands or in a query, is no operation and is refused
(`ExactlyIllegalWordsAreRefused`). That the levels of `rst` are inputs of a step is the model's form (log
entry 10). -/
def Obligations.ResetHoldsEveryField : Prop :=
  ∀ (s : State) (rest : List Input),
    (s.inputs = .rst true :: rest → step s = .next { State.resetOf s.cfg with rst := true, inputs := rest }) ∧
    (s.rst = true → ∀ w, ¬ Illegal s.cfg w → s.inputs = .word w :: rest →
      step s = .next { State.resetOf s.cfg with rst := true, inputs := rest }) ∧
    (s.rst = true → ∀ st, (∀ op arg, st = .query op arg → ¬ Illegal s.cfg (op ++ arg)) →
      s.inputs = .strobe st :: rest →
      step s = .next { State.resetOf s.cfg with rst := true, inputs := rest }) ∧
    (s.rst = true → s.inputs = .rst false :: rest →
      step s = .next { State.resetOf s.cfg with inputs := rest })

/-- A configuration is taken only while `rst = 1`, and then the block stands at its reset values under it; at any
other time a change is refused, and the values already held are no change and leave the block as it is
(20_memory.md R74; 70_reset_and_hazards.md R253, R269). The refusal, and that equal values are no change, are the
model's reading of a change `outside the spec` (log entry 11). -/
def Obligations.ConfigurationChangesOnlyInReset : Prop :=
  ∀ (s : State) (c : Config) (rest : List Input), s.inputs = .configure c :: rest → c.wf = true →
    (s.rst = true → step s = .next { State.resetOf c with rst := true, inputs := rest }) ∧
    (¬ Faulted s → s.rst = false →
      (c ≠ s.cfg → step s = .refused .configurationChanged) ∧
      (c = s.cfg → step s = .next { s with inputs := rest, out := {} }))

/-! The invariant -/

/-- The reset state of every legal configuration meets the invariant (10_state.md R48, R50). -/
def Obligations.ResetMeetsTheInvariant : Prop := ∀ c : Config, c.wf = true → Invariant (State.resetOf c)

/-- Every step from a state that meets the invariant leads to one that meets it (10_state.md R48 items 1 to 6).
That the cells stay at reset without `POLLED = 1`, and that `rst` is held in the state, are the model's own
(log entries 10, 13). -/
def Obligations.StepKeepsTheInvariant : Prop :=
  ∀ s t : State, ¬ Faulted s → Invariant s → step s = .next t → Invariant t

/-- Every legal operation completes in every state that meets the invariant: no fault and no refusal. -/
def Obligations.EveryLegalOperationCompletes : Prop :=
  ∀ (s : State) (i : Instr), ¬ Faulted s → Invariant s → i.wf s.cfg = true → ∃ t, exec i s = .next t

/-! Derived flags and outputs -/

/-- `irq_en` and `timer_armed`, without which a STEP has no effect (10_state.md R28, R29), and `sk_irq_en[n]`
and `sk_timer_armed[n]` (R35). -/
def Obligations.EnablesFollowTheState : Prop :=
  ∀ s : State, ¬ Faulted s →
    (irqEn s = true ↔ s.cfg.polled = false ∧ s.scan.phase = .idle ∧ s.arb.owner = .scanner) ∧
    (timerArmed s = true ↔ s.cfg.polled = false ∧ s.scan.phase ≠ .idle ∧ s.arb.owner = .scanner) ∧
    (timerArmed s = false → ∀ sm, exec (.step sm) s = .next { s with out := {} }) ∧
    ∀ (n : Nat) (k : StandaloneKeyState), s.skeys[n]? = some k →
      skIrqEn s n = k.idle ∧ skTimerArmed s n = !k.idle

/-- `col_drive_en` and `ColPattern`, and the level on a column pin (10_state.md R30; 20_memory.md R68). -/
def Obligations.ColumnsFollowTheState : Prop :=
  ∀ (s : State) (c : Nat), ¬ Faulted s →
    (colDriveEn s = true ↔ s.arb.owner = .scanner) ∧
    (s.cfg.polled = true → (colPattern s c = true ↔ c = s.poll.col.toNat)) ∧
    (s.cfg.polled = false → s.scan.phase = .identifyButton ∨ s.scan.phase = .releasePending →
      (colPattern s c = true ↔ c = s.scan.currentColumn.toNat)) ∧
    (s.cfg.polled = false →
      s.scan.phase = .idle ∨ s.scan.phase = .checkForKeyChange ∨ s.scan.phase = .releaseDetected →
      colPattern s c = true) ∧
    (s.arb.owner = .externalPeer → colPinLevel s c = none) ∧
    (s.arb.owner = .scanner →
      colPinLevel s c = some (colPattern s c == s.cfg.colActiveLevel))

/-! NOP, EDGE and STEP -/

/-- NOP: nothing happens (40_scan_state_machine.md R127). -/
def Obligations.NopChangesNothing : Prop :=
  encode .nop = 0x0000#16 ∧ ∀ s : State, ¬ Faulted s → exec .nop s = .next { s with out := {} }

/-- EDGE while `irq_en = 0` is ignored: a polled block, a cycle in progress, or the peer's pins (R128). -/
def Obligations.EdgeIgnoredWhileMasked : Prop :=
  ∀ (s : State) (r : BitVec 3) (sm : Samples), ¬ Faulted s → r.toNat < s.cfg.numRows →
    s.cfg.polled = true ∨ s.scan.phase ≠ .idle ∨ s.arb.owner = .externalPeer →
    exec (.edge r sm) s = .next { s with out := {} }

/-- An accepted EDGE whose three samples are asserted confirms the press in column `C−1` (R128, R121, R122,
R165). -/
def Obligations.EdgeConfirmsInTheLastColumn : Prop :=
  ∀ (s : State) (r : BitVec 3), ¬ Faulted s → Invariant s → r.toNat < s.cfg.numRows → ArmedIn .idle s →
    ∃ k, keymapAt s.cfg r.toNat (s.cfg.numCols - 1) = some k ∧
      exec (.edge r ⟨true, true, true⟩) s =
        .next (afterPress s (r.setWidth 8) (BitVec.ofNat 8 (s.cfg.numCols - 1)) k)

/-- An accepted EDGE with a released sample fails column `C−1`: the scan goes on at the next column, or with
one column it is a spurious edge, back in `Idle` with the window closed (R128, R121, R126, R169). -/
def Obligations.EdgeFailsTheLastColumn : Prop :=
  ∀ (s : State) (r : BitVec 3) (sm : Samples), ¬ Faulted s → Invariant s → r.toNat < s.cfg.numRows →
    ArmedIn .idle s → sm ≠ ⟨true, true, true⟩ →
    exec (.edge r sm) s = .next
      (if 1 < s.cfg.numCols then
        { s with
          scan := { s.scan with phase := .identifyButton, currentRow := r.setWidth 8,
                                currentColumn := BitVec.ofNat 8 (s.cfg.numCols - 2) }
          out := {} }
      else
        { s with
          scan := { s.scan with currentRow := r.setWidth 8, currentColumn := 0#8 }
          latch := windowCleared s.latch
          out := {} })

/-- STEP while `timer_armed = 0` is ignored (R129). -/
def Obligations.StepIgnoredWhileDisarmed : Prop :=
  ∀ (s : State) (sm : Samples), ¬ Faulted s →
    s.cfg.polled = true ∨ s.scan.phase = .idle ∨ s.arb.owner = .externalPeer →
    exec (.step sm) s = .next { s with out := {} }

/-- In `IdentifyButton` three asserted samples confirm the press at the cursor: reported, latched where the
window is open, waiting for the release (R121, R122, R165). -/
def Obligations.ColumnStepConfirmsThePress : Prop :=
  ∀ s : State, ¬ Faulted s → Invariant s → ArmedIn .identifyButton s →
    ∃ k, keymapAt s.cfg s.scan.currentRow.toNat s.scan.currentColumn.toNat = some k ∧
      exec (.step ⟨true, true, true⟩) s = .next (afterPress s s.scan.currentRow s.scan.currentColumn k)

/-- In `IdentifyButton` any other samples fail the column: the cursor goes down by one, and from column 0 the
cycle ends in `Idle` with no event and the window closed (R121, R126, R169). -/
def Obligations.ColumnStepFailsTheColumn : Prop :=
  ∀ (s : State) (sm : Samples), ¬ Faulted s → Invariant s → ArmedIn .identifyButton s →
    sm ≠ ⟨true, true, true⟩ →
    exec (.step sm) s = .next
      (if s.scan.currentColumn = 0#8 then
        { s with scan := { s.scan with phase := .idle }, latch := windowCleared s.latch, out := {} }
      else
        { s with scan := { s.scan with currentColumn := s.scan.currentColumn - 1#8 }, out := {} })

/-- In `ReleasePending` a released sample counts and an asserted one clears the count; the count that reaches
`DEBOUNCE_TICKS` moves to `CheckForKeyChange` (R124). -/
def Obligations.ReleasePendingCounts : Prop :=
  ∀ (s : State) (sm : Samples), ¬ Faulted s → ArmedIn .releasePending s →
    exec (.step sm) s = .next
      { s with
        scan :=
          if sm.s0 then { s.scan with releaseStableCount := 0#16 }
          else { s.scan with
            releaseStableCount := s.scan.releaseStableCount + 1#16
            phase := if s.cfg.debounceTicks ≤ s.scan.releaseStableCount + 1#16 then .checkForKeyChange
                     else .releasePending }
        out := {} }

/-- In `CheckForKeyChange` the release of the old key is reported; an asserted sample restarts the column scan
on the same row, a released one ends the cycle (R125, R126, R169). -/
def Obligations.KeyChangeReportsTheRelease : Prop :=
  ∀ (s : State) (sm : Samples), ¬ Faulted s → Invariant s → ArmedIn .checkForKeyChange s →
    exec (.step sm) s = .next
      (if sm.s0 then
        { s with
          scan := { s.scan with activeValid := false, activeCode := 0#8, phase := .identifyButton,
                                currentColumn := BitVec.ofNat 8 (s.cfg.numCols - 1) }
          out := { events := [⟨s.scan.activeCode, false⟩] } }
      else
        { s with
          scan := { s.scan with activeValid := false, activeCode := 0#8, phase := .idle }
          latch := windowCleared s.latch
          out := { events := [⟨s.scan.activeCode, false⟩] } })

/-! REQ and REL -/

/-- REQ hands the pins over and touches nothing else; the edges are masked and the timer stopped
(41_shared_pin_arbiter.md R150; 20_memory.md R71). -/
def Obligations.RequestHandsThePinsOver : Prop :=
  ∀ s : State, ¬ Faulted s → s.arb.owner = .scanner →
    exec .req s =
      .next { s with arb := { s.arb with owner := .externalPeer }, out := { peerDone := true } } ∧
    ∀ t, exec .req s = .next t → irqEn t = false ∧ timerArmed t = false ∧ colDriveEn t = false

/-- REL in mid-cycle or in the polled variant, and REL in `Idle` with no row asserted, give the pins back and
touch nothing else: the cycle goes on where it stopped, with its column pattern (R151; 45 R202). -/
def Obligations.ReleaseResumesWhereItStopped : Prop :=
  ∀ (s : State) (rows : BitVec 5) (sm : Samples), ¬ Faulted s → rows.toNat < 2 ^ s.cfg.numRows →
    s.arb.owner = .externalPeer → s.cfg.polled = true ∨ s.scan.phase ≠ .idle ∨ rows = 0#5 →
    exec (.rel rows sm) s =
      .next { s with arb := { s.arb with owner := .scanner }, out := { peerDone := true } } ∧
    ∀ t, exec (.rel rows sm) s = .next t →
      (∀ c, colPattern t c = colPattern s c) ∧ colDriveEn t = true ∧
      (s.cfg.polled = false → irqEn t = decide (s.scan.phase = .idle) ∧ timerArmed t = !irqEn t)

/-- REL in `Idle` with a row asserted does what EDGE of the lowest asserted row does right after the release
(R152). -/
def Obligations.PollActsAsTheMissedEdge : Prop :=
  ∀ (s : State) (rows : BitVec 5) (sm : Samples) (r : BitVec 3), ¬ Faulted s → Invariant s →
    rows.toNat < 2 ^ s.cfg.numRows → s.cfg.polled = false → s.arb.owner = .externalPeer →
    s.scan.phase = .idle → rows.getLsbD r.toNat = true → (∀ q < r.toNat, rows.getLsbD q = false) →
    ∃ t, exec (.edge r sm) { s with arb := { s.arb with owner := .scanner } } = .next t ∧
      exec (.rel rows sm) s = .next { t with out := { t.out with peerDone := true } }

/-- The two misuses set the sticky flag, which marks the state as faulted, and change nothing else (R153). That
the peer gets its `peer_done` then too is the model's reading (log entry 5). -/
def Obligations.MisuseOnlySetsTheFlag : Prop :=
  ∀ s : State,
    (¬ Faulted s → s.arb.owner = .externalPeer →
      exec .req s = .next { s with arb := { s.arb with arbFault := true }, out := { peerDone := true } }) ∧
    (¬ Faulted s → s.arb.owner = .scanner → ∀ rows sm, rows.toNat < 2 ^ s.cfg.numRows →
      exec (.rel rows sm) s =
        .next { s with arb := { s.arb with arbFault := true }, out := { peerDone := true } }) ∧
    ∀ i t, exec i s = .next t → Faulted s → Faulted t

/-! WTICK, RDKEY and RDRC -/

/-- WTICK counts an open window down and closes it at its last tick; elsewhere it is ignored
(42_power_on_latch.md R166). -/
def Obligations.WindowTickCountsDown : Prop :=
  ∀ s : State, ¬ Faulted s → exec .wtick s = .next
    { s with
      latch :=
        if s.latch.state = .armed then
          if s.latch.deadline ≤ 1#16 then { s.latch with state := .none, deadline := 0#16 }
          else { s.latch with deadline := s.latch.deadline - 1#16 }
        else s.latch
      out := {} }

/-- RDKEY answers the captured key's code and consumes the latch; elsewhere it answers `None` (R167). -/
def Obligations.RdkeyAnswersOnce : Prop :=
  ∀ s : State, ¬ Faulted s → Invariant s →
    (s.latch.state = .capturedPending →
      ∃ k, keymapAt s.cfg s.latch.row.toNat s.latch.col.toNat = some k ∧
        exec .rdkey s = .next { s with
          latch := consumed s.latch, out := { res := some (0x01#8 ++ k) } }) ∧
    (s.latch.state ≠ .capturedPending →
      exec .rdkey s = .next { s with out := { res := some 0x0000#16 } })

/-- RDRC answers the captured row and column and consumes the latch; elsewhere it answers `None` (R168;
30_encoding.md R93). -/
def Obligations.RdrcAnswersOnce : Prop :=
  ∀ s : State, ¬ Faulted s →
    (s.latch.state = .capturedPending →
      exec .rdrc s = .next { s with
        latch := consumed s.latch
        out := { res := some (0x01#8 ++ 0#1 ++ s.latch.row.extractLsb' 0 3 ++ 0#1 ++
                              s.latch.col.extractLsb' 0 3) } }) ∧
    (s.latch.state ≠ .capturedPending →
      exec .rdrc s = .next { s with out := { res := some 0x0000#16 } })

/-- After either read, either read answers `None` and changes nothing (R167, R168; 20_memory.md R66). -/
def Obligations.SecondReadAnswersNone : Prop :=
  ∀ (s t : State) (i j : Instr), ¬ Faulted s → i = .rdkey ∨ i = .rdrc → j = .rdkey ∨ j = .rdrc → exec i s = .next t →
    exec j t = .next { t with out := { res := some 0x0000#16 } }

/-! KSTATE, SUPP and ALT -/

/-- KSTATE answers whether the press of `k` is reported and its release not, from the active key or, in the
polled variant, from the cells that map to `k` (43_host_queries.md R180). -/
def Obligations.KstateAnswersTheDebouncedState : Prop :=
  ∀ (s : State) (k : KeyCode), ¬ Faulted s → ∃ v : BitVec 16,
    exec (.kstate k) s = .next { s with out := { res := some v } } ∧
    (v = 0#16 ∨ v = 1#16) ∧
    (s.cfg.polled = false → (v = 1#16 ↔ s.scan.activeValid = true ∧ s.scan.activeCode = k)) ∧
    (s.cfg.polled = true →
      (v = 1#16 ↔ ∃ r < s.cfg.numRows, ∃ c < s.cfg.numCols, ∃ x,
        keymapAt s.cfg r c = some k ∧ cellAt s.poll r c = some x ∧ x.level = true))

/-- SUPP answers entry `i` of `KEYS_PRESENT`, `UNUSED` beyond the table (R181). -/
def Obligations.SuppAnswersTheTable : Prop :=
  ∀ (s : State) (i : BitVec 5), ¬ Faulted s →
    exec (.supp i) s =
      .next { s with out := { res := some (0x00#8 ++ (s.cfg.keysPresent[i.toNat]?).getD 0x00#8) } }

/-- ALT answers entry `i` of `ALT_KEYS`, `UNUSED` beyond the table (R182). -/
def Obligations.AltAnswersTheTable : Prop :=
  ∀ (s : State) (i : BitVec 5), ¬ Faulted s →
    exec (.alt i) s =
      .next { s with out := { res := some (0x00#8 ++ (s.cfg.altKeys[i.toNat]?).getD 0x00#8) } }

/-! SEDGE and STICK -/

/-- SEDGE starts the debounce of an idle key and is ignored otherwise; nothing is reported
(44_standalone_debouncer.md R190). -/
def Obligations.StandaloneEdgeStartsTheDebounce : Prop :=
  ∀ (s : State) (n : BitVec 1) (lvl : Bool), ¬ Faulted s → Invariant s → n.toNat < s.cfg.nSkey →
    ∃ k, s.skeys[n.toNat]? = some k ∧
      exec (.sedge n lvl) s = .next { s with
        skeys := if k.idle then s.skeys.set n.toNat { k with idle := false } else s.skeys, out := {} }

/-- STICK of a key in debounce reports a level that differs from the last reported one and goes on, and else
makes the key idle; of an idle key it is ignored (R191). -/
def Obligations.StandaloneTickReportsOrRests : Prop :=
  ∀ (s : State) (n : BitVec 1) (lvl : Bool), ¬ Faulted s → Invariant s → n.toNat < s.cfg.nSkey →
    ∃ k kc, s.skeys[n.toNat]? = some k ∧ s.cfg.skeys[n.toNat]? = some kc ∧
      exec (.stick n lvl) s = .next
        (if k.idle then { s with out := {} }
        else if lvl ≠ k.lastLevel then
          { s with
            skeys := s.skeys.set n.toNat { lastLevel := lvl, idle := false }
            out := { events := [⟨kc.code, decide (lvl = kc.active)⟩] } }
        else { s with skeys := s.skeys.set n.toNat { k with idle := true }, out := {} })

/-- A standalone key's events carry its code and alternate, press after release and release after press,
whatever operations run (R191, R192). -/
def Obligations.StandaloneReportsAlternate : Prop :=
  ∀ (s t : State) (is : List Instr) (l : Log) (n : BitVec 1) (kc : StandaloneKeyConfig)
    (k k' : StandaloneKeyState),
    ¬ Faulted t → runOps is s = some (t, l) → s.cfg.skeys[n.toNat]? = some kc →
    s.skeys[n.toNat]? = some k → t.skeys[n.toNat]? = some k' →
    alternate (standaloneHeld kc k) (standaloneEvents n l) = some (standaloneHeld kc k')

/-! PTICK and the polled variant -/

/-- PTICK without `POLLED = 1` and the scanner's pins is ignored (45_polled_variant.md R201). -/
def Obligations.PollTickIgnored : Prop :=
  ∀ (s : State) (rows : BitVec 5), ¬ Faulted s → rows.toNat < 2 ^ s.cfg.numRows →
    s.cfg.polled = false ∨ s.arb.owner = .externalPeer →
    exec (.ptick rows) s = .next { s with out := {} }

/-- PTICK polls every row of the column `poll_col`: each cell counts, reports or clears, the events come in
ascending row order, the latch takes the first report, the other columns' cells stay, and the column goes
on by one (R201, R165, R169). -/
def Obligations.PollTickPollsOneColumn : Prop :=
  ∀ (s : State) (rows : BitVec 5), ¬ Faulted s → Invariant s → rows.toNat < 2 ^ s.cfg.numRows →
    s.cfg.polled = true → s.arb.owner = .scanner →
    ∃ t, exec (.ptick rows) s = .next t ∧
      t = { s with
        poll := t.poll
        latch := polledLatch s rows
        out := { events := (List.range s.cfg.numRows).filterMap (rowEvent s rows) } } ∧
      t.poll.col.toNat = (s.poll.col.toNat + 1) % s.cfg.numCols ∧
      (∀ r x, cellAt s.poll r s.poll.col.toNat = some x →
        cellAt t.poll r s.poll.col.toNat = some (polledCell s.cfg (rows.getLsbD r) x)) ∧
      ∀ r c, c ≠ s.poll.col.toNat → cellAt t.poll r c = cellAt s.poll r c

/-- With `POLLED = 1` edges and the scan timer are dead, EDGE and STEP are ignored, REL runs no poll, and the
one column `poll_col` is selected (R200). -/
def Obligations.PolledModeHasNoPhases : Prop :=
  ∀ s : State, ¬ Faulted s → s.cfg.polled = true →
    irqEn s = false ∧ timerArmed s = false ∧ (∀ c, colPattern s c = (c == s.poll.col.toNat)) ∧
    (∀ r sm, r.toNat < s.cfg.numRows → exec (.edge r sm) s = .next { s with out := {} }) ∧
    (∀ sm, exec (.step sm) s = .next { s with out := {} }) ∧
    ∀ i t, exec i s = .next t → t.scan = s.scan

/-! What no operation does -/

/-- No operation writes the configuration; none touches the reset input or the inputs still to come
(10_state.md R40, R41; 20_memory.md R74). -/
def Obligations.ConfigurationIsConstant : Prop :=
  ∀ (i : Instr) (s t : State), ¬ Faulted s → exec i s = .next t → t.cfg = s.cfg ∧ t.rst = s.rst ∧ t.inputs = s.inputs

/-- The owner and the fault are written by REQ and REL only, ScanState by EDGE, STEP and REL only, the latch by
those and WTICK, RDKEY, RDRC and PTICK only, the standalone keys by SEDGE and STICK only (and only the instance
named), the cells by PTICK only (10_state.md R20, R21, R26, R27, R34; 42 R170; 44 R192). -/
def Obligations.EachGroupHasItsWriters : Prop :=
  ∀ (i : Instr) (s t : State), ¬ Faulted s → exec i s = .next t →
    (i ≠ .req → (∀ rows sm, i ≠ .rel rows sm) → t.arb = s.arb) ∧
    ((∀ r sm, i ≠ .edge r sm) → (∀ sm, i ≠ .step sm) → (∀ rows sm, i ≠ .rel rows sm) → t.scan = s.scan) ∧
    ((∀ n lvl, i ≠ .sedge n lvl) → (∀ n lvl, i ≠ .stick n lvl) → t.skeys = s.skeys) ∧
    (∀ n lvl, i = .sedge n lvl ∨ i = .stick n lvl →
      t = { s with skeys := t.skeys, out := t.out } ∧ ∀ m, m ≠ n.toNat → t.skeys[m]? = s.skeys[m]?) ∧
    ((∀ rows, i ≠ .ptick rows) → t.poll = s.poll) ∧
    (i = .nop ∨ i = .req ∨ (∃ k, i = .kstate k) ∨ (∃ j, i = .supp j) ∨ (∃ j, i = .alt j) →
      t.latch = s.latch)

/-- `owner` is written by REQ (to ExternalPeer) and REL (to Scanner) only; `arb_fault` is set by a REQ under
the peer and a REL under the scanner, cleared by no operation, and cleared by reset (10_state.md R26, R27). -/
def Obligations.ArbitrationHasItsWriters : Prop :=
  (∀ (i : Instr) (s t : State), exec i s = .next t →
    (¬ Faulted s → t.arb.owner ≠ s.arb.owner → (i = .req ∧ t.arb.owner = .externalPeer) ∨
      (∃ rows sm, i = .rel rows sm) ∧ t.arb.owner = .scanner) ∧
    (t.arb.arbFault = true ↔ s.arb.arbFault = true ∨ (i = .req ∧ s.arb.owner = .externalPeer) ∨
      (∃ rows sm, i = .rel rows sm) ∧ s.arb.owner = .scanner)) ∧
  ∀ (s t : State) (rest : List Input), s.inputs = .rst true :: rest → step s = .next t →
    t.arb.arbFault = false

/-- The five queries, and no other operation, return a result (30_encoding.md R93). -/
def Obligations.OnlyQueriesReturnAResult : Prop :=
  ∀ (i : Instr) (s t : State), ¬ Faulted s → exec i s = .next t → (t.out.res.isSome = isQuery i)

/-- Only PTICK can emit more than one event; it emits at most one for each row (20_memory.md R70). -/
def Obligations.AtMostOneEventUnlessPolled : Prop :=
  ∀ (i : Instr) (s t : State), ¬ Faulted s → exec i s = .next t →
    t.out.events.length ≤ match i with
      | .ptick _ => s.cfg.numRows
      | .nop | .edge _ _ | .step _ | .wtick | .req | .rel _ _ | .rdkey | .rdrc | .kstate _ | .supp _
      | .alt _ | .sedge _ _ | .stick _ _ => 1

/-- Every operation moves `phase` as the phase table says, with the events it says
(40_scan_state_machine.md R130). -/
def Obligations.PhaseMovesAsTheTableSays : Prop :=
  ∀ (s : State) (i : Instr), ¬ Faulted s → Invariant s → s.cfg.polled = false → i.wf s.cfg = true →
    ∃ t, exec i s = .next t ∧ PhaseTable s t i

/-- The latch moves only by the causes the spec lists: the press of the captured cell, the window's last tick, an
operation that ends a cycle, a poll tick whose first report is a release, and a read; a captured cell is one whose
press is reported in the same operation (42_power_on_latch.md R165, R170; 45_polled_variant.md R201; 10_state.md
R48 item 8). -/
def Obligations.LatchMovesOnlyByItsCauses : Prop :=
  ∀ (s t : State) (i : Instr), ¬ Faulted s → Invariant s → exec i s = .next t → LatchCause s t i

/-! Ownership of the pins -/

/-- While the peer owns the pins EDGE, STEP and PTICK are ignored, the columns are not driven, and no sample is
taken: but for the strobe that gives the pins back, none has a column selected for it, and no word made of one
depends on the levels of the row pins. WTICK, the queries, SEDGE and STICK do what they do under the scanner
(41_shared_pin_arbiter.md R154; 20_memory.md R67). -/
def Obligations.PeerExcludesTheScanner : Prop :=
  ∀ (s : State) (i : Instr), ¬ Faulted s → s.arb.owner = .externalPeer → i.wf s.cfg = true →
    irqEn s = false ∧ timerArmed s = false ∧ colDriveEn s = false ∧
    (∀ st, (∀ rows l0 l1 l2, st ≠ .peerRel rows l0 l1 l2) → ∀ c, sampledUnder s c st = false) ∧
    (∀ r l0 l1 l2 m0 m1 m2, strobeWord s (.rowEdge r l0 l1 l2) = strobeWord s (.rowEdge r m0 m1 m2)) ∧
    (∀ l0 l1 l2 m0 m1 m2, strobeWord s (.scanTick l0 l1 l2) = strobeWord s (.scanTick m0 m1 m2)) ∧
    (∀ l m, strobeWord s (.pollTick l) = strobeWord s (.pollTick m)) ∧
    (isSampling i = true → exec i s = .next { s with out := {} }) ∧
    (i = .wtick ∨ isQuery i = true ∨ (∃ n lvl, i = .sedge n lvl) ∨ (∃ n lvl, i = .stick n lvl) →
      ∀ t, exec i s = .next t →
        exec i { s with arb := { s.arb with owner := .scanner } } =
          .next { t with arb := { t.arb with owner := .scanner } })

/-- Until the next REL, no sequence of operations changes ScanState, the cells or the owner
(20_memory.md R71, R72). -/
def Obligations.NothingIsScannedUntilRelease : Prop :=
  ∀ (is : List Instr) (s t : State) (l : Log), ¬ Faulted t → s.arb.owner = .externalPeer →
    is.all (fun i => !isRel i) = true → runOps is s = some (t, l) →
    t.scan = s.scan ∧ t.poll = s.poll ∧ t.arb.owner = .externalPeer ∧ matrixEvents l = []

/-- Under strict alternation `arb_fault` stays 0 and `owner` toggles (41_shared_pin_arbiter.md R155). -/
def Obligations.AlternationNeverFaults : Prop :=
  ∀ (is : List Instr) (s t : State) (l : Log) (o : Owner), ¬ Faulted s →
    properUse s.arb.owner is = some o → runOps is s = some (t, l) → ¬ Faulted t ∧ t.arb.owner = o

/-- A handoff in mid-cycle is invisible to the scan: whatever operations but REQ and REL arrive between the two,
what follows reaches the same state with the same matrix events as without the handoff and without the edges,
ticks and polls that came in it; window ticks, queries and the standalone keys go on through it
(41_shared_pin_arbiter.md R151, R154; 95_test_vectors.md E7). -/
def Obligations.HandoffLeavesTheScanUnchanged : Prop :=
  ∀ (s : State) (during after : List Instr) (rows : BitVec 5) (sm : Samples), ¬ Faulted s →
    s.arb.owner = .scanner → s.cfg.polled = true ∨ s.scan.phase ≠ .idle →
    rows.toNat < 2 ^ s.cfg.numRows →
    during.all (fun i => !isArbiter i && i.wf s.cfg) = true → after ≠ [] →
    (∀ p, runOps (during.filter (fun i => !isSampling i) ++ after) s = some p → ¬ Faulted p.1) →
    (runOps (.req :: (during ++ .rel rows sm :: after)) s).map (fun p => (p.1, matrixEvents p.2)) =
      (runOps (during.filter (fun i => !isSampling i) ++ after) s).map fun p => (p.1, matrixEvents p.2)

/-! Whole cycles -/

/-- Whatever operations run, the matrix scanner's events alternate: a press, then the release of that same
key, then a press (10_state.md R48 item 7; 40 R135 item 1). -/
def Obligations.PressAndReleaseAlternate : Prop :=
  ∀ (is : List Instr) (s t : State) (l : Log), ¬ Faulted t → Invariant s → s.cfg.polled = false →
    s.rst = false → runOps is s = some (t, l) → alternate (activeKey s) (matrixEvents l) = some (activeKey t)

/-- A key held alone from `Idle` is found in its own row and column, with exactly its press reported, however
many columns are tried before its own (40_scan_state_machine.md R135 item 1; 95_test_vectors.md E1). -/
def Obligations.AHeldKeyIsFound : Prop :=
  ∀ (s : State) (r : BitVec 3) (below : Nat) (failing : List Samples), ¬ Faulted s → Invariant s →
    ArmedIn .idle s → s.rst = false → r.toNat < s.cfg.numRows → failing.length + 1 + below = s.cfg.numCols →
    (∀ sm ∈ failing, sm ≠ ⟨true, true, true⟩) →
    ∃ k t l, keymapAt s.cfg r.toNat below = some k ∧
      runOps (scanWith r (failing ++ [⟨true, true, true⟩])) s = some (t, l) ∧
      matrixEvents l = [⟨k, true⟩] ∧ t.scan.phase = .releasePending ∧ activeKey t = some k ∧
      t.scan.currentRow.toNat = r.toNat ∧ t.scan.currentColumn.toNat = below

/-- Fewer than `DEBOUNCE_TICKS` released steps in a row report nothing and leave the key pressed
(40_scan_state_machine.md R124, R135 item 2). -/
def Obligations.AShortReleaseReportsNothing : Prop :=
  ∀ (s : State) (sms : List Samples), ¬ Faulted s → ArmedIn .releasePending s →
    (∀ sm ∈ sms, sm.s0 = false) →
    s.scan.releaseStableCount.toNat + sms.length < s.cfg.debounceTicks.toNat →
    ∃ t l, runOps (sms.map .step) s = some (t, l) ∧ matrixEvents l = [] ∧
      t.scan = { s.scan with
        releaseStableCount := s.scan.releaseStableCount + BitVec.ofNat 16 sms.length }

/-- A key let go is reported released, once, by the step after the one that completes the count, and the
machine is back in `Idle` with the edges enabled (40_scan_state_machine.md R124 to R126, R135 item 4). -/
def Obligations.AReleaseIsReportedAfterTheDebounce : Prop :=
  ∀ (s : State) (sms : List Samples), ¬ Faulted s → Invariant s → ArmedIn .releasePending s →
    (∀ sm ∈ sms, sm.s0 = false) →
    s.scan.releaseStableCount.toNat + sms.length = s.cfg.debounceTicks.toNat + 1 →
    ∃ t l, runOps (sms.map .step) s = some (t, l) ∧
      matrixEvents l = [⟨s.scan.activeCode, false⟩] ∧ t.scan.phase = .idle ∧ activeKey t = none ∧
      irqEn t = true

/-- While every sample is asserted the key stays pressed for ever, with no event and the timer armed
(40_scan_state_machine.md R136). -/
def Obligations.AStuckKeyStaysPressed : Prop :=
  ∀ (s : State) (sms : List Samples), ¬ Faulted s → ArmedIn .releasePending s → (∀ sm ∈ sms, sm.s0 = true) →
    ∃ t l, runOps (sms.map .step) s = some (t, l) ∧ matrixEvents l = [] ∧
      t.scan.phase = .releasePending ∧ activeKey t = activeKey s ∧ timerArmed t = true

/-- A scan in which no column answers ends in `Idle` after the columns left, with no event and the edges
enabled (40_scan_state_machine.md R121, R135 item 3). -/
def Obligations.ASpuriousScanEndsInIdle : Prop :=
  ∀ (s : State) (sms : List Samples), ¬ Faulted s → Invariant s → ArmedIn .identifyButton s →
    (∀ sm ∈ sms, sm ≠ ⟨true, true, true⟩) → sms.length = s.scan.currentColumn.toNat + 1 →
    ∃ t l, runOps (sms.map .step) s = some (t, l) ∧ matrixEvents l = [] ∧ t.scan.phase = .idle ∧
      irqEn t = true ∧ t.latch = windowCleared s.latch
end

