-- ==== Sys2Proof/Laws/State.lean ====
section
/-! SUPPORT. What each plain update of the state does to each field, so that no proof unfolds a record
update. -/

namespace Sys2Proof.Machine

/-! `State.quiet` -/

@[simp] theorem quiet_cfg (s : State) : s.quiet.cfg = s.cfg := rfl
@[simp] theorem quiet_scan (s : State) : s.quiet.scan = s.scan := rfl
@[simp] theorem quiet_arb (s : State) : s.quiet.arb = s.arb := rfl
@[simp] theorem quiet_latch (s : State) : s.quiet.latch = s.latch := rfl
@[simp] theorem quiet_skeys (s : State) : s.quiet.skeys = s.skeys := rfl
@[simp] theorem quiet_poll (s : State) : s.quiet.poll = s.poll := rfl
@[simp] theorem quiet_rst (s : State) : s.quiet.rst = s.rst := rfl
@[simp] theorem quiet_inputs (s : State) : s.quiet.inputs = s.inputs := rfl
@[simp] theorem quiet_out (s : State) : s.quiet.out = {} := rfl

/-! `emit` -/

@[simp] theorem emit_cfg (k : KeyCode) (p : Bool) (s : State) : (emit k p s).cfg = s.cfg := rfl
@[simp] theorem emit_scan (k : KeyCode) (p : Bool) (s : State) : (emit k p s).scan = s.scan := rfl
@[simp] theorem emit_arb (k : KeyCode) (p : Bool) (s : State) : (emit k p s).arb = s.arb := rfl
@[simp] theorem emit_latch (k : KeyCode) (p : Bool) (s : State) : (emit k p s).latch = s.latch := rfl
@[simp] theorem emit_skeys (k : KeyCode) (p : Bool) (s : State) : (emit k p s).skeys = s.skeys := rfl
@[simp] theorem emit_poll (k : KeyCode) (p : Bool) (s : State) : (emit k p s).poll = s.poll := rfl
@[simp] theorem emit_rst (k : KeyCode) (p : Bool) (s : State) : (emit k p s).rst = s.rst := rfl
@[simp] theorem emit_inputs (k : KeyCode) (p : Bool) (s : State) : (emit k p s).inputs = s.inputs := rfl
@[simp] theorem emit_out_events (k : KeyCode) (p : Bool) (s : State) :
    (emit k p s).out.events = s.out.events ++ [⟨k, p⟩] := rfl
@[simp] theorem emit_out_res (k : KeyCode) (p : Bool) (s : State) : (emit k p s).out.res = s.out.res := rfl
@[simp] theorem emit_out_peerDone (k : KeyCode) (p : Bool) (s : State) :
    (emit k p s).out.peerDone = s.out.peerDone := rfl

/-! `answer` -/

@[simp] theorem answer_cfg (v : ResultWord) (s : State) : (answer v s).cfg = s.cfg := rfl
@[simp] theorem answer_scan (v : ResultWord) (s : State) : (answer v s).scan = s.scan := rfl
@[simp] theorem answer_arb (v : ResultWord) (s : State) : (answer v s).arb = s.arb := rfl
@[simp] theorem answer_latch (v : ResultWord) (s : State) : (answer v s).latch = s.latch := rfl
@[simp] theorem answer_skeys (v : ResultWord) (s : State) : (answer v s).skeys = s.skeys := rfl
@[simp] theorem answer_poll (v : ResultWord) (s : State) : (answer v s).poll = s.poll := rfl
@[simp] theorem answer_rst (v : ResultWord) (s : State) : (answer v s).rst = s.rst := rfl
@[simp] theorem answer_inputs (v : ResultWord) (s : State) : (answer v s).inputs = s.inputs := rfl
@[simp] theorem answer_out_events (v : ResultWord) (s : State) : (answer v s).out.events = s.out.events := rfl
@[simp] theorem answer_out_res (v : ResultWord) (s : State) : (answer v s).out.res = some v := rfl
@[simp] theorem answer_out_peerDone (v : ResultWord) (s : State) : (answer v s).out.peerDone = s.out.peerDone := rfl

/-! `signalPeer` -/

@[simp] theorem signalPeer_cfg (s : State) : (signalPeer s).cfg = s.cfg := rfl
@[simp] theorem signalPeer_scan (s : State) : (signalPeer s).scan = s.scan := rfl
@[simp] theorem signalPeer_arb (s : State) : (signalPeer s).arb = s.arb := rfl
@[simp] theorem signalPeer_latch (s : State) : (signalPeer s).latch = s.latch := rfl
@[simp] theorem signalPeer_skeys (s : State) : (signalPeer s).skeys = s.skeys := rfl
@[simp] theorem signalPeer_poll (s : State) : (signalPeer s).poll = s.poll := rfl
@[simp] theorem signalPeer_rst (s : State) : (signalPeer s).rst = s.rst := rfl
@[simp] theorem signalPeer_inputs (s : State) : (signalPeer s).inputs = s.inputs := rfl
@[simp] theorem signalPeer_out_events (s : State) : (signalPeer s).out.events = s.out.events := rfl
@[simp] theorem signalPeer_out_res (s : State) : (signalPeer s).out.res = s.out.res := rfl
@[simp] theorem signalPeer_out_peerDone (s : State) : (signalPeer s).out.peerDone = true := rfl

/-! `latchConsume` -/

@[simp] theorem latchConsume_cfg (s : State) : (latchConsume s).cfg = s.cfg := rfl
@[simp] theorem latchConsume_scan (s : State) : (latchConsume s).scan = s.scan := rfl
@[simp] theorem latchConsume_arb (s : State) : (latchConsume s).arb = s.arb := rfl
@[simp] theorem latchConsume_skeys (s : State) : (latchConsume s).skeys = s.skeys := rfl
@[simp] theorem latchConsume_poll (s : State) : (latchConsume s).poll = s.poll := rfl
@[simp] theorem latchConsume_out (s : State) : (latchConsume s).out = s.out := rfl
@[simp] theorem latchConsume_rst (s : State) : (latchConsume s).rst = s.rst := rfl
@[simp] theorem latchConsume_inputs (s : State) : (latchConsume s).inputs = s.inputs := rfl
@[simp] theorem latchConsume_latch_state (s : State) : (latchConsume s).latch.state = .consumed := rfl
@[simp] theorem latchConsume_latch_rowValid (s : State) : (latchConsume s).latch.rowValid = false := rfl
@[simp] theorem latchConsume_latch_row (s : State) : (latchConsume s).latch.row = 0#8 := rfl
@[simp] theorem latchConsume_latch_colValid (s : State) : (latchConsume s).latch.colValid = false := rfl
@[simp] theorem latchConsume_latch_col (s : State) : (latchConsume s).latch.col = 0#8 := rfl
@[simp] theorem latchConsume_latch_deadline (s : State) : (latchConsume s).latch.deadline = s.latch.deadline := rfl

/-! `edgeEntry` -/

@[simp] theorem edgeEntry_cfg (r : U8) (s : State) : (edgeEntry r s).cfg = s.cfg := rfl
@[simp] theorem edgeEntry_arb (r : U8) (s : State) : (edgeEntry r s).arb = s.arb := rfl
@[simp] theorem edgeEntry_latch (r : U8) (s : State) : (edgeEntry r s).latch = s.latch := rfl
@[simp] theorem edgeEntry_skeys (r : U8) (s : State) : (edgeEntry r s).skeys = s.skeys := rfl
@[simp] theorem edgeEntry_poll (r : U8) (s : State) : (edgeEntry r s).poll = s.poll := rfl
@[simp] theorem edgeEntry_out (r : U8) (s : State) : (edgeEntry r s).out = s.out := rfl
@[simp] theorem edgeEntry_rst (r : U8) (s : State) : (edgeEntry r s).rst = s.rst := rfl
@[simp] theorem edgeEntry_inputs (r : U8) (s : State) : (edgeEntry r s).inputs = s.inputs := rfl
@[simp] theorem edgeEntry_scan_phase (r : U8) (s : State) : (edgeEntry r s).scan.phase = .identifyButton := rfl
@[simp] theorem edgeEntry_scan_currentColumn (r : U8) (s : State) :
    (edgeEntry r s).scan.currentColumn = lastColumn s.cfg := rfl
@[simp] theorem edgeEntry_scan_currentRow (r : U8) (s : State) : (edgeEntry r s).scan.currentRow = r := rfl
@[simp] theorem edgeEntry_scan_activeValid (r : U8) (s : State) :
    (edgeEntry r s).scan.activeValid = s.scan.activeValid := rfl
@[simp] theorem edgeEntry_scan_activeCode (r : U8) (s : State) :
    (edgeEntry r s).scan.activeCode = s.scan.activeCode := rfl
@[simp] theorem edgeEntry_scan_releaseStableCount (r : U8) (s : State) :
    (edgeEntry r s).scan.releaseStableCount = s.scan.releaseStableCount := rfl

/-! `raiseArbMisuse` -/

@[simp] theorem raiseArbMisuse_cfg (s : State) : (raiseArbMisuse s).cfg = s.cfg := rfl
@[simp] theorem raiseArbMisuse_scan (s : State) : (raiseArbMisuse s).scan = s.scan := rfl
@[simp] theorem raiseArbMisuse_latch (s : State) : (raiseArbMisuse s).latch = s.latch := rfl
@[simp] theorem raiseArbMisuse_skeys (s : State) : (raiseArbMisuse s).skeys = s.skeys := rfl
@[simp] theorem raiseArbMisuse_poll (s : State) : (raiseArbMisuse s).poll = s.poll := rfl
@[simp] theorem raiseArbMisuse_out (s : State) : (raiseArbMisuse s).out = s.out := rfl
@[simp] theorem raiseArbMisuse_rst (s : State) : (raiseArbMisuse s).rst = s.rst := rfl
@[simp] theorem raiseArbMisuse_inputs (s : State) : (raiseArbMisuse s).inputs = s.inputs := rfl
@[simp] theorem raiseArbMisuse_arb_owner (s : State) : (raiseArbMisuse s).arb.owner = s.arb.owner := rfl
@[simp] theorem raiseArbMisuse_arb_arbFault (s : State) : (raiseArbMisuse s).arb.arbFault = true := rfl

/-! `setOwner` -/

@[simp] theorem setOwner_cfg (o : Owner) (s : State) : (setOwner o s).cfg = s.cfg := rfl
@[simp] theorem setOwner_scan (o : Owner) (s : State) : (setOwner o s).scan = s.scan := rfl
@[simp] theorem setOwner_latch (o : Owner) (s : State) : (setOwner o s).latch = s.latch := rfl
@[simp] theorem setOwner_skeys (o : Owner) (s : State) : (setOwner o s).skeys = s.skeys := rfl
@[simp] theorem setOwner_poll (o : Owner) (s : State) : (setOwner o s).poll = s.poll := rfl
@[simp] theorem setOwner_out (o : Owner) (s : State) : (setOwner o s).out = s.out := rfl
@[simp] theorem setOwner_rst (o : Owner) (s : State) : (setOwner o s).rst = s.rst := rfl
@[simp] theorem setOwner_inputs (o : Owner) (s : State) : (setOwner o s).inputs = s.inputs := rfl
@[simp] theorem setOwner_arb_owner (o : Owner) (s : State) : (setOwner o s).arb.owner = o := rfl
@[simp] theorem setOwner_arb_arbFault (o : Owner) (s : State) : (setOwner o s).arb.arbFault = s.arb.arbFault := rfl

/-! `setStandaloneKey` -/

@[simp] theorem setStandaloneKey_cfg (n : Nat) (k : StandaloneKeyState) (s : State) : (setStandaloneKey n k s).cfg = s.cfg := rfl
@[simp] theorem setStandaloneKey_scan (n : Nat) (k : StandaloneKeyState) (s : State) : (setStandaloneKey n k s).scan = s.scan := rfl
@[simp] theorem setStandaloneKey_arb (n : Nat) (k : StandaloneKeyState) (s : State) : (setStandaloneKey n k s).arb = s.arb := rfl
@[simp] theorem setStandaloneKey_latch (n : Nat) (k : StandaloneKeyState) (s : State) : (setStandaloneKey n k s).latch = s.latch := rfl
@[simp] theorem setStandaloneKey_poll (n : Nat) (k : StandaloneKeyState) (s : State) : (setStandaloneKey n k s).poll = s.poll := rfl
@[simp] theorem setStandaloneKey_out (n : Nat) (k : StandaloneKeyState) (s : State) : (setStandaloneKey n k s).out = s.out := rfl
@[simp] theorem setStandaloneKey_rst (n : Nat) (k : StandaloneKeyState) (s : State) : (setStandaloneKey n k s).rst = s.rst := rfl
@[simp] theorem setStandaloneKey_inputs (n : Nat) (k : StandaloneKeyState) (s : State) : (setStandaloneKey n k s).inputs = s.inputs := rfl
@[simp] theorem setStandaloneKey_skeys (n : Nat) (k : StandaloneKeyState) (s : State) :
    (setStandaloneKey n k s).skeys = s.skeys.set n k := rfl

/-! `setCell` -/

@[simp] theorem setCell_cfg (r c : Nat) (x : Cell) (s : State) : (setCell r c x s).cfg = s.cfg := rfl
@[simp] theorem setCell_scan (r c : Nat) (x : Cell) (s : State) : (setCell r c x s).scan = s.scan := rfl
@[simp] theorem setCell_arb (r c : Nat) (x : Cell) (s : State) : (setCell r c x s).arb = s.arb := rfl
@[simp] theorem setCell_latch (r c : Nat) (x : Cell) (s : State) : (setCell r c x s).latch = s.latch := rfl
@[simp] theorem setCell_skeys (r c : Nat) (x : Cell) (s : State) : (setCell r c x s).skeys = s.skeys := rfl
@[simp] theorem setCell_out (r c : Nat) (x : Cell) (s : State) : (setCell r c x s).out = s.out := rfl
@[simp] theorem setCell_rst (r c : Nat) (x : Cell) (s : State) : (setCell r c x s).rst = s.rst := rfl
@[simp] theorem setCell_inputs (r c : Nat) (x : Cell) (s : State) : (setCell r c x s).inputs = s.inputs := rfl
@[simp] theorem setCell_poll_col (r c : Nat) (x : Cell) (s : State) : (setCell r c x s).poll.col = s.poll.col := rfl
@[simp] theorem setCell_poll_cells (r c : Nat) (x : Cell) (s : State) :
    (setCell r c x s).poll.cells = s.poll.cells.modify r fun l => l.set c x := rfl

/-! `advancePollColumn` -/

@[simp] theorem advancePollColumn_cfg (s : State) : (advancePollColumn s).cfg = s.cfg := rfl
@[simp] theorem advancePollColumn_scan (s : State) : (advancePollColumn s).scan = s.scan := rfl
@[simp] theorem advancePollColumn_arb (s : State) : (advancePollColumn s).arb = s.arb := rfl
@[simp] theorem advancePollColumn_latch (s : State) : (advancePollColumn s).latch = s.latch := rfl
@[simp] theorem advancePollColumn_skeys (s : State) : (advancePollColumn s).skeys = s.skeys := rfl
@[simp] theorem advancePollColumn_out (s : State) : (advancePollColumn s).out = s.out := rfl
@[simp] theorem advancePollColumn_rst (s : State) : (advancePollColumn s).rst = s.rst := rfl
@[simp] theorem advancePollColumn_inputs (s : State) : (advancePollColumn s).inputs = s.inputs := rfl
@[simp] theorem advancePollColumn_poll_col (s : State) :
    (advancePollColumn s).poll.col = BitVec.ofNat 8 ((s.poll.col.toNat + 1) % s.cfg.numCols) := rfl
@[simp] theorem advancePollColumn_poll_cells (s : State) : (advancePollColumn s).poll.cells = s.poll.cells := rfl

end Sys2Proof.Machine
end

