-- ==== Sys2Proof/Laws/Ops.lean ====
section
/-! SUPPORT. What each shared operation can do, said once: the latch's actions, the scan step, the poll. -/

namespace Sys2Proof.Machine

/-! Actions one after another -/

@[simp] theorem andThen_next (s : State) (f : State → Result) : andThen (.next s) f = f s := rfl
@[simp] theorem andThen_fault (e : Fault) (f : State → Result) : andThen (.fault e) f = .fault e := rfl
@[simp] theorem andThen_refused (e : Refusal) (f : State → Result) :
    andThen (.refused e) f = .refused e := rfl

theorem andThen_eq_next {o : Result} {f : State → Result} {t : State} :
    andThen o f = .next t ↔ ∃ u, o = .next u ∧ f u = .next t := by
  cases o <;> simp

/-! LatchCapture and LatchWindowClear -/

/-- LatchCapture touches the latch, and the latch only where it is armed. -/
theorem latchCapture_eq (row col : U8) (s : State) :
    latchCapture row col s =
      { s with latch :=
          if s.latch.state = .armed then
            { s.latch with
              state := .capturedPending, rowValid := true, row := row, colValid := true, col := col }
          else s.latch } := by
  unfold latchCapture
  split <;> simp_all

/-- LatchWindowClear touches the latch, and the latch only where it is armed. -/
theorem latchWindowClear_eq (s : State) :
    latchWindowClear s =
      { s with latch :=
          if s.latch.state = .armed then { s.latch with state := .none, deadline := 0#16 } else s.latch } := by
  unfold latchWindowClear
  split <;> simp_all

/-! The scan step -/

/-- Releasing the active key emits its release where there is one, and leaves no key active. -/
theorem releaseActive_eq (s : State) :
    releaseActive s =
      { s with
        scan := { s.scan with activeValid := false, activeCode := 0#8 }
        out := { s.out with
          events := s.out.events ++ if s.scan.activeValid then [⟨s.scan.activeCode, false⟩] else [] } } := by
  unfold releaseActive
  cases h : s.scan.activeValid <;> simp [emit]

/-- ReleaseDetectedAction: the release, `Idle`, and the window cleared. -/
theorem releaseDetectedAction_eq (s : State) :
    releaseDetectedAction s =
      { s with
        scan := { s.scan with activeValid := false, activeCode := 0#8, phase := .idle }
        latch :=
          if s.latch.state = .armed then { s.latch with state := .none, deadline := 0#16 } else s.latch
        out := { s.out with
          events := s.out.events ++ if s.scan.activeValid then [⟨s.scan.activeCode, false⟩] else [] } } := by
  simp [releaseDetectedAction, latchWindowClear_eq, releaseActive_eq]

/-- ConfirmPress completes exactly where the cursor names an entry of `KEYMAP`, and then this is what it
leaves. -/
theorem confirmPress_eq_next {s t : State} :
    confirmPress s = .next t ↔
      ∃ k, keymapAt s.cfg s.scan.currentRow.toNat s.scan.currentColumn.toNat = some k ∧
        t = { s with
          scan := { s.scan with
            activeValid := true, activeCode := k, releaseStableCount := 0#16, phase := .releasePending }
          latch :=
            if s.latch.state = .armed then
              { s.latch with
                state := .capturedPending, rowValid := true, row := s.scan.currentRow,
                colValid := true, col := s.scan.currentColumn }
            else s.latch
          out := { s.out with events := s.out.events ++ [⟨k, true⟩] } } := by
  unfold confirmPress
  split
  · simp_all
  · rename_i k h
    simp only [h, Option.some.injEq, exists_eq_left', Host.Outcome.next.injEq, latchCapture_eq, emit]
    exact eq_comm

/-- KeyChangeStep, both ways. -/
theorem keyChangeStep_eq (s0 : Bool) (s : State) :
    keyChangeStep s0 s =
      { s with
        scan :=
          if s0 then { s.scan with
            activeValid := false, activeCode := 0#8, phase := .identifyButton,
            currentColumn := lastColumn s.cfg }
          else { s.scan with activeValid := false, activeCode := 0#8, phase := .idle }
        latch :=
          if s0 = false ∧ s.latch.state = .armed then { s.latch with state := .none, deadline := 0#16 }
          else s.latch
        out := { s.out with
          events := s.out.events ++ if s.scan.activeValid then [⟨s.scan.activeCode, false⟩] else [] } } := by
  cases s0 <;> simp [keyChangeStep, releaseDetectedAction_eq, releaseActive_eq]

/-- ColumnStep where a sample is released: the next column, or the end of the cycle. -/
theorem columnStep_of_not_asserted {sm : Samples} {s : State} (h : allAsserted sm = false) :
    columnStep sm s =
      .next (if s.scan.currentColumn = 0#8 then releaseDetectedAction s
        else { s with scan := { s.scan with currentColumn := s.scan.currentColumn - 1#8 } }) := by
  unfold columnStep
  split
  · simp_all
  · split <;> rfl

/-- A scan step writes ScanState, the latch and the events, and nothing else. -/
theorem scanStep_frame {sm : Samples} {s t : State} (h : scanStep sm s = .next t) :
    t = { s with scan := t.scan, latch := t.latch, out := { s.out with events := t.out.events } } := by
  unfold scanStep at h
  split at h
  · cases h; rfl
  · unfold columnStep at h
    split at h
    · obtain ⟨k, -, rfl⟩ := confirmPress_eq_next.1 h; rfl
    · split at h <;> cases h
      · rw [releaseDetectedAction_eq]
      · rfl
  · cases h; unfold releasePendingStep; split <;> rfl
  · cases h; rw [keyChangeStep_eq]
  · cases h; rw [releaseDetectedAction_eq]

/-- A scan step never refuses. -/
theorem scanStep_not_refused (sm : Samples) (s : State) (e : Refusal) : scanStep sm s ≠ .refused e := by
  unfold scanStep columnStep confirmPress
  repeat' split
  all_goals simp

/-! Operands -/

/-- Three asserted samples, in one word. -/
theorem allAsserted_iff {sm : Samples} : allAsserted sm = true ↔ sm = ⟨true, true, true⟩ := by
  rcases sm with ⟨_ | _, _ | _, _ | _⟩ <;> decide

theorem allAsserted_eq_false {sm : Samples} : allAsserted sm = false ↔ sm ≠ ⟨true, true, true⟩ := by
  rw [← Bool.not_eq_true, allAsserted_iff]

/-- A row vector with no row from `R` on, as a number. -/
theorem rowsInRange_iff {c : Config} {rows : BitVec 5} :
    rowsInRange c rows = true ↔ rows.toNat < 2 ^ c.numRows := by
  unfold rowsInRange
  rw [beq_iff_eq, ← BitVec.toNat_inj, BitVec.toNat_ushiftRight, Nat.shiftRight_eq_div_pow]
  simp [Nat.div_eq_zero_iff]

@[simp] theorem rowInRange_iff {c : Config} {r : BitVec 3} :
    rowInRange c r = true ↔ r.toNat < c.numRows := decide_eq_true_iff

@[simp] theorem instanceInRange_iff {c : Config} {n : BitVec 1} :
    instanceInRange c n = true ↔ n.toNat < c.nSkey := decide_eq_true_iff

/-- The lowest row of a row vector: it is set and none below it is. -/
theorem lowestRow_eq_some {rows : BitVec 5} {r : Nat} :
    lowestRow rows = some r ↔ rows.getLsbD r = true ∧ ∀ q < r, rows.getLsbD q = false := by
  have below : ∀ n, rows.getLsbD n = true → n < 5 := fun n h =>
    Nat.lt_of_not_le fun hn => by rw [BitVec.getLsbD_of_ge _ _ hn] at h; cases h
  unfold lowestRow
  rw [List.find?_range_eq_some]
  constructor
  · rintro ⟨h, -, hq⟩; exact ⟨h, fun q hr => by simpa using hq q hr⟩
  · rintro ⟨h, hq⟩; exact ⟨h, List.mem_range.2 (below r h), fun q hr => by simp [hq q hr]⟩

/-- No row is the lowest exactly in the empty row vector. -/
theorem lowestRow_eq_none {rows : BitVec 5} : lowestRow rows = none ↔ rows = 0#5 := by
  constructor
  · intro h
    apply BitVec.eq_of_getLsbD_eq
    intro i hi
    have := List.find?_eq_none.1 h i (List.mem_range.2 hi)
    simpa using this
  · rintro rfl; decide

/-! The cells of the polled variant -/

/-- Reading a cell after a write: the written cell where it exists, every other cell as before. -/
theorem cellAt_setCell (r c r' c' : Nat) (x : Cell) (s : State) :
    cellAt (setCell r c x s).poll r' c' =
      if r' = r ∧ c' = c then (cellAt s.poll r c).map fun _ => x else cellAt s.poll r' c' := by
  simp only [cellAt, setCell_poll_cells, List.getElem?_modify]
  by_cases hr : r = r'
  · subst hr
    rcases h : s.poll.cells[r]? with _ | l
    · simp
    · by_cases hc : c' = c
      · subst hc
        rcases h' : l[c']? with _ | y
        · simp [List.getElem?_set, h']; simpa using h'
        · have := (List.getElem?_eq_some_iff.1 h').1
          simp [this]
      · simp [hc, Ne.symm hc]
  · simp [hr, Ne.symm hr]

/-- One row of a poll completes exactly where its cell exists and, if the cell is reported, its `KEYMAP` entry
does; this is what it leaves. -/
theorem pollCell_eq_next {a : Bool} {r c : Nat} {s t : State} :
    pollCell a r c s = .next t ↔ ∃ x, cellAt s.poll r c = some x ∧
      (a = x.level ∧ t = setCell r c { x with cnt := 0#16 } s ∨
       a ≠ x.level ∧ s.cfg.debounceTicks ≤ x.cnt + 1#16 ∧ (∃ k, keymapAt s.cfg r c = some k ∧
          t = { setCell r c { level := a, cnt := 0#16 } s with
            latch :=
              if a then (latchCapture (BitVec.ofNat 8 r) (BitVec.ofNat 8 c) s).latch
              else (latchWindowClear s).latch
            out := { s.out with events := s.out.events ++ [⟨k, a⟩] } }) ∨
       a ≠ x.level ∧ ¬ s.cfg.debounceTicks ≤ x.cnt + 1#16 ∧
          t = setCell r c { x with cnt := x.cnt + 1#16 } s) := by
  unfold pollCell
  rcases hx : cellAt s.poll r c with _ | x
  · simp
  · have pick {o : State} : (Host.Outcome.next o : Result) = .next t ↔ t = o := by simpa using eq_comm
    by_cases ha : a = x.level
    · simp [ha, pick]
    · by_cases hd : s.cfg.debounceTicks ≤ x.cnt + 1#16
      · rcases hk : keymapAt s.cfg r c with _ | k
        · simp [ha, hd]
        · have hl : x.level = !a := by cases a <;> cases hx' : x.level <;> simp_all
          cases a <;>
            simp [hl, hd, BitVec.not_lt.2 hd, pick, latchCapture_eq, latchWindowClear_eq, emit, setCell]
      · simp [ha, if_neg hd, pick, BitVec.not_le.1 hd]

/-- A row of a poll writes its cell, the latch and the events, and nothing else. -/
theorem pollCell_frame {a : Bool} {r c : Nat} {s t : State} (h : pollCell a r c s = .next t) :
    t = { s with
      poll := { s.poll with cells := t.poll.cells }
      latch := t.latch
      out := { s.out with events := t.out.events } } := by
  obtain ⟨x, -, ⟨-, rfl⟩ | ⟨-, -, k, -, rfl⟩ | ⟨-, -, rfl⟩⟩ := pollCell_eq_next.1 h <;> rfl

/-- A poll writes the cells, the latch and the events, and nothing else. -/
theorem pollRows_frame {rows : BitVec 5} {c : Nat} {rs : List Nat} {s t : State}
    (h : pollRows rows c rs s = .next t) :
    t = { s with
      poll := { s.poll with cells := t.poll.cells }
      latch := t.latch
      out := { s.out with events := t.out.events } } := by
  induction rs generalizing s with
  | nil => cases h; rfl
  | cons r rs ih =>
    obtain ⟨u, hu, ht⟩ := andThen_eq_next.1 h
    rw [ih ht, pollCell_frame hu]

/-- A row of a poll never refuses. -/
theorem pollCell_not_refused (a : Bool) (r c : Nat) (s : State) (e : Refusal) :
    pollCell a r c s ≠ .refused e := by
  unfold pollCell
  dsimp only
  repeat' split
  all_goals simp

/-- A poll never refuses. -/
theorem pollRows_not_refused (rows : BitVec 5) (c : Nat) (rs : List Nat) (s : State) (e : Refusal) :
    pollRows rows c rs s ≠ .refused e := by
  induction rs generalizing s with
  | nil => simp [pollRows]
  | cons r rs ih =>
    unfold pollRows
    rcases h : pollCell (rows.getLsbD r) r c s with u | f | f
    · exact ih u
    · simp
    · exact absurd h (pollCell_not_refused _ _ _ _ _)

end Sys2Proof.Machine
end

