-- ==== Sys2Proof/Laws/Exec.lean ====
section
/-! SUPPORT. What each operation can write, said once per operation: a proof that follows a component of the
state through an operation cites its frame here and does not unfold the meaning. -/

namespace Sys2Proof.Machine

/-- An operation does not read the outputs of the one before it. -/
theorem exec_out (i : Instr) (s : State) (o : Output) : exec i { s with out := o } = exec i s := by
  cases i <;> rfl

/-! The operations that always complete, in one equation each -/

theorem execNop_eq (s : State) : execNop s = .next { s with out := {} } := rfl

theorem execReq_eq (s : State) :
    execReq s = .next { s with
      arb :=
        if s.arb.owner = .scanner then { s.arb with owner := .externalPeer }
        else { s.arb with arbFault := true }
      out := { peerDone := true } } := by
  unfold execReq
  cases h : s.arb.owner <;> simp [setOwner, signalPeer, State.quiet, raiseArbMisuse]

theorem execKstate_eq (k : KeyCode) (s : State) :
    execKstate k s = .next { s with out := { res := some (pressedResult (keyPressed s k)) } } := rfl

theorem execSupp_eq (i : BitVec 5) (s : State) :
    execSupp i s =
      .next { s with out := { res := some (codeResult (capabilityAt s.cfg.keysPresent i.toNat)) } } := rfl

theorem execAlt_eq (i : BitVec 5) (s : State) :
    execAlt i s =
      .next { s with out := { res := some (codeResult (capabilityAt s.cfg.altKeys i.toNat)) } } := rfl

/-- WTICK touches the latch only, and only its state and deadline. -/
theorem execWtick_frame {s t : State} (h : execWtick s = .next t) :
    t = { s with latch := { s.latch with state := t.latch.state, deadline := t.latch.deadline }, out := {} } := by
  unfold execWtick at h
  dsimp only at h
  split at h
  · split at h <;> cases h <;> rfl
  all_goals cases h; rfl

/-- RDKEY without a captured key. -/
theorem execRdkey_none {s : State} (h : s.latch.state ≠ .capturedPending) :
    execRdkey s = .next { s with out := { res := some 0#16 } } := by
  unfold execRdkey
  split <;> simp_all [answer, State.quiet, noneResult]

/-- RDRC without a captured key. -/
theorem execRdrc_none {s : State} (h : s.latch.state ≠ .capturedPending) :
    execRdrc s = .next { s with out := { res := some 0#16 } } := by
  unfold execRdrc
  split <;> simp_all [answer, State.quiet, noneResult]

/-! Frames -/

/-- EDGE writes ScanState, the latch and the events. -/
theorem execEdge_frame {r : BitVec 3} {sm : Samples} {s t : State} (h : execEdge r sm s = .next t) :
    t = { s with scan := t.scan, latch := t.latch, out := { events := t.out.events } } := by
  unfold execEdge at h
  split at h
  · split at h
    · rw [scanStep_frame h]; rfl
    · cases h; rfl
  · cases h

/-- STEP writes ScanState, the latch and the events. -/
theorem execStep_frame {sm : Samples} {s t : State} (h : execStep sm s = .next t) :
    t = { s with scan := t.scan, latch := t.latch, out := { events := t.out.events } } := by
  unfold execStep at h
  split at h
  · rw [scanStep_frame h]; rfl
  · cases h; rfl

/-- REL writes ScanState, the latch and the events, moves the owner or sets the fault, and signals the peer. -/
theorem execRel_frame {rows : BitVec 5} {sm : Samples} {s t : State} (h : execRel rows sm s = .next t) :
    t = { s with
      scan := t.scan, latch := t.latch
      arb :=
        if s.arb.owner = .externalPeer then { s.arb with owner := .scanner }
        else { s.arb with arbFault := true }
      out := { events := t.out.events, peerDone := true } } := by
  unfold execRel at h
  split at h
  · split at h
    · rename_i ho
      rw [if_pos ho]
      dsimp only at h
      split at h
      · unfold lostKeypressPoll at h
        split at h
        · cases h; rfl
        · rw [scanStep_frame h]; rfl
      · cases h; rfl
    · rename_i ho
      rw [if_neg (by rw [ho]; decide)]
      cases h; rfl
  · cases h

/-- RDKEY writes the latch and the result, answers always, and leaves nothing captured. -/
theorem execRdkey_frame {s t : State} (h : execRdkey s = .next t) :
    t = { s with latch := t.latch, out := { res := t.out.res } } ∧ t.out.res.isSome = true ∧
      t.latch.state ≠ .capturedPending := by
  unfold execRdkey at h
  split at h
  · split at h
    · cases h
    · cases h; exact ⟨rfl, rfl, by simp⟩
  all_goals cases h; rename_i hh; exact ⟨rfl, rfl, by simp [hh]⟩

/-- RDRC writes the latch and the result, answers always, and leaves nothing captured. -/
theorem execRdrc_frame {s t : State} (h : execRdrc s = .next t) :
    t = { s with latch := t.latch, out := { res := t.out.res } } ∧ t.out.res.isSome = true ∧
      t.latch.state ≠ .capturedPending := by
  unfold execRdrc at h
  split at h
  · cases h; exact ⟨rfl, rfl, by simp⟩
  all_goals cases h; rename_i hh; exact ⟨rfl, rfl, by simp [hh]⟩

/-- SEDGE writes the named standalone key and reports nothing. -/
theorem execSedge_frame {n : BitVec 1} {lvl : Bool} {s t : State} (h : execSedge n lvl s = .next t) :
    t = { s with skeys := t.skeys, out := {} } ∧ ∀ m, m ≠ n.toNat → t.skeys[m]? = s.skeys[m]? := by
  unfold execSedge at h
  split at h
  · split at h
    · cases h
    · split at h
      · cases h; exact ⟨rfl, fun m hm => by simp [Ne.symm hm]⟩
      · cases h; exact ⟨rfl, fun m _ => rfl⟩
  · cases h

/-- STICK writes the named standalone key and the events. -/
theorem execStick_frame {n : BitVec 1} {lvl : Bool} {s t : State} (h : execStick n lvl s = .next t) :
    t = { s with skeys := t.skeys, out := { events := t.out.events } } ∧
      ∀ m, m ≠ n.toNat → t.skeys[m]? = s.skeys[m]? := by
  unfold execStick at h
  split at h
  · split at h
    · split at h
      · cases h; exact ⟨rfl, fun m _ => rfl⟩
      · split at h
        all_goals cases h; exact ⟨rfl, fun m hm => by simp [Ne.symm hm]⟩
    · cases h
  · cases h

/-- PTICK writes the polled variant's state, the latch and the events. -/
theorem execPtick_frame {rows : BitVec 5} {s t : State} (h : execPtick rows s = .next t) :
    t = { s with poll := t.poll, latch := t.latch, out := { events := t.out.events } } := by
  unfold execPtick at h
  split at h
  · split at h
    · obtain ⟨u, hu, ht⟩ := andThen_eq_next.1 h
      cases ht
      rw [pollRows_frame hu]; rfl
    · cases h; rfl
  · cases h

end Sys2Proof.Machine
end

