-- ==== Sys2Proof/Laws/PerInstr.lean ====
section
/-! SUPPORT. The family of statements made once per instruction: the word of an operation matches the
operation's row of the opcode map (30_encoding.md R95), whatever its operands. -/

/-- The word of `i`, under the mask of its row, is the row's pattern; and the row names `i`. -/
def Sys2Proof.Laws.EncodeMatchesRow.Statement (i : Sys2Proof.Instr) : Prop :=
  Sys2Proof.encode i &&& (Sys2Proof.opcodeRow i).mask = (Sys2Proof.opcodeRow i).pattern ∧
    (Sys2Proof.opcodeRow i).mnemonic = i.mnemonic

namespace Sys2Proof.Laws

set_option Elab.async false

theorem EncodeMatchesRow.nop : EncodeMatchesRow.Statement .nop := ⟨rfl, rfl⟩

theorem EncodeMatchesRow.edge (r : BitVec 3) (sm : Samples) : EncodeMatchesRow.Statement (.edge r sm) := by
  refine ⟨?_, rfl⟩
  simp only [encode, opcodeRow]
  generalize sm.bits = b
  revert r b
  decide

theorem EncodeMatchesRow.step (sm : Samples) : EncodeMatchesRow.Statement (.step sm) := by
  refine ⟨?_, rfl⟩
  simp only [encode, opcodeRow]
  generalize sm.bits = b
  revert b
  decide

theorem EncodeMatchesRow.wtick : EncodeMatchesRow.Statement .wtick := ⟨rfl, rfl⟩

theorem EncodeMatchesRow.req : EncodeMatchesRow.Statement .req := ⟨rfl, rfl⟩

theorem EncodeMatchesRow.rel (rows : BitVec 5) (sm : Samples) :
    EncodeMatchesRow.Statement (.rel rows sm) := by
  refine ⟨?_, rfl⟩
  simp only [encode, opcodeRow]
  generalize sm.bits = b
  revert rows b
  decide

theorem EncodeMatchesRow.rdkey : EncodeMatchesRow.Statement .rdkey := ⟨rfl, rfl⟩

theorem EncodeMatchesRow.rdrc : EncodeMatchesRow.Statement .rdrc := ⟨rfl, rfl⟩

theorem EncodeMatchesRow.kstate (k : KeyCode) : EncodeMatchesRow.Statement (.kstate k) := by
  refine ⟨?_, rfl⟩
  simp only [encode, opcodeRow]
  revert k
  decide

theorem EncodeMatchesRow.supp (i : BitVec 5) : EncodeMatchesRow.Statement (.supp i) := by
  refine ⟨?_, rfl⟩
  simp only [encode, opcodeRow]
  revert i
  decide

theorem EncodeMatchesRow.alt (i : BitVec 5) : EncodeMatchesRow.Statement (.alt i) := by
  refine ⟨?_, rfl⟩
  simp only [encode, opcodeRow]
  revert i
  decide

theorem EncodeMatchesRow.sedge (n : BitVec 1) (lvl : Bool) : EncodeMatchesRow.Statement (.sedge n lvl) := by
  refine ⟨?_, rfl⟩
  simp only [encode, opcodeRow]
  revert n lvl
  decide

theorem EncodeMatchesRow.stick (n : BitVec 1) (lvl : Bool) : EncodeMatchesRow.Statement (.stick n lvl) := by
  refine ⟨?_, rfl⟩
  simp only [encode, opcodeRow]
  revert n lvl
  decide

theorem EncodeMatchesRow.ptick (rows : BitVec 5) : EncodeMatchesRow.Statement (.ptick rows) := by
  refine ⟨?_, rfl⟩
  simp only [encode, opcodeRow]
  revert rows
  decide

end Sys2Proof.Laws
end

