-- ==== Sys2Proof/Laws/Ports.lean ====
section
/-! SUPPORT. What the block reads at the row pins for a strobe (20_memory.md R62, R67), and what a word, a
configuration or a strobe comes to in reset and out of it, said once. -/

namespace Sys2Proof.Machine

/-- Bit `q` of the row vector is the sample of row `q` where the matrix has that row. -/
theorem sampleRows_getLsbD (c : Config) (levels : BitVec 5) {q : Nat} (hq : q < 5) :
    (sampleRows c levels).getLsbD q = (decide (q < c.numRows) && sampleRow c q levels) := by
  have hmask : (BitVec.ofNat 5 (2 ^ c.numRows - 1)).getLsbD q = decide (q < c.numRows) := by
    rw [BitVec.getLsbD_ofNat, Nat.testBit_two_pow_sub_one]
    simp [hq]
  rw [sampleRows, BitVec.getLsbD_and, hmask, Bool.and_comm]
  congr 1
  cases h : c.rowActiveLevel <;> simp [sampleRow, sampleOf, h, hq]

/-- A row vector the block reads has no row from `R` on. -/
theorem sampleRows_lt (c : Config) (levels : BitVec 5) : (sampleRows c levels).toNat < 2 ^ c.numRows := by
  rw [sampleRows, BitVec.toNat_and]
  refine Nat.lt_of_le_of_lt Nat.and_le_right ?_
  rw [BitVec.toNat_ofNat]
  have := Nat.mod_le (2 ^ c.numRows - 1) (2 ^ 5)
  have := Nat.two_pow_pos c.numRows
  omega

/-- PTICK carries every row sampled once where the scanner owns the pins. -/
theorem pollTickRows_scanner {s : State} (levels : BitVec 5) (h : s.arb.owner = .scanner) :
    pollTickRows s levels = sampleRows s.cfg levels := by rw [pollTickRows, h]

/-- PTICK carries no sample where the peer does. -/
theorem pollTickRows_peer {s : State} (levels : BitVec 5) (h : s.arb.owner = .externalPeer) :
    pollTickRows s levels = 0#5 := by rw [pollTickRows, h]

/-- PTICK carries no row from `R` on. -/
theorem pollTickRows_lt (s : State) (levels : BitVec 5) :
    (pollTickRows s levels).toNat < 2 ^ s.cfg.numRows := by
  cases h : s.arb.owner
  · rw [pollTickRows_scanner levels h]
    exact sampleRows_lt s.cfg levels
  · rw [pollTickRows_peer levels h]
    exact Nat.two_pow_pos _

/-- REL carries no samples where no row is asserted or the phase is not `Idle`. -/
theorem relSamples_released {s : State} {levels : BitVec 5} (l0 l1 l2 : BitVec 5)
    (h : sampleRows s.cfg levels = 0#5 ∨ s.scan.phase ≠ .idle) :
    relSamples s levels l0 l1 l2 = .released := by
  unfold relSamples
  split
  · rename_i hp
    rw [lowestRow_eq_none.2 (h.resolve_right fun hn => hn hp)]
  · rfl

/-- In `Idle` REL carries three samples of the lowest asserted row. -/
theorem relSamples_lowest {s : State} {levels : BitVec 5} {r : Nat} (l0 l1 l2 : BitVec 5)
    (hp : s.scan.phase = .idle) (hr : lowestRow (sampleRows s.cfg levels) = some r) :
    relSamples s levels l0 l1 l2 = samplesOfRow s.cfg r l0 l1 l2 := by
  rw [relSamples, if_pos hp, hr]

/-- Right after `EdgeEntry` the last column, and no other, is selected. -/
theorem colPattern_edgeEntry {s : State} (hp : s.cfg.polled = false) (r : U8) (c : Nat) :
    colPattern (edgeEntry r s) c = (c == (lastColumn s.cfg).toNat) := by
  simp [colPattern, edgeEntry, hp]

/-! In reset and out of it -/

theorem State.settle_of_reset {s : State} (h : s.rst = true) : s.settle = s.held := by simp [settle, h]

theorem State.settle_of_running {s : State} (h : s.rst = false) : s.settle = s.quiet := by simp [settle, h]

/-- What the configuration inputs come to: a change in reset, no change out of it, or a refusal. -/
theorem reconfigure_eq_settled {c : Config} {s t : State} (h : reconfigure c s = .settled t) :
    (s.rst = true ∧ c.wf = true ∧ t = { s with cfg := c }.held) ∨
      s.rst = false ∧ c = s.cfg ∧ t = s.quiet := by
  unfold reconfigure at h
  split at h
  · rename_i hr
    split at h <;> cases h
    exact .inl ⟨hr, ‹_›, rfl⟩
  · rename_i hr
    have hr : s.rst = false := by simpa using hr
    split at h <;> cases h
    exact .inr ⟨hr, ‹_›, State.settle_of_running hr⟩

/-- The word of a strobe does not depend on the outputs of the last operation. -/
theorem strobeWord_quiet (s : State) (st : Strobe) : strobeWord s.quiet st = strobeWord s st := by
  cases st <;> rfl

/-- The configuration inputs are never an operation. -/
theorem reconfigure_ne_operation (c : Config) (s : State) (w : OpWord) (t : State) :
    reconfigure c s ≠ .operation w t := by
  unfold reconfigure
  intro h
  split at h
  · split at h <;> cases h
  · split at h <;> cases h

/-- Out of reset a word is the operation to execute. -/
theorem takeWord_of_running {s : State} (h : s.rst = false) (w : OpWord) : takeWord w s = .operation w s := by
  simp [takeWord, h]

/-- In reset a word is never executed: it is ignored where it is legal and refused where it is not. -/
theorem takeInReset_cases (w : OpWord) (s : State) :
    (takeInReset w s = .settled s.held ∧ ∃ i, decode w = .ok i ∧ i.wf s.cfg = true) ∨
      (∃ r, takeInReset w s = .outside r) ∧
        ((∃ e, decode w = .error e) ∨ ∃ i, decode w = .ok i ∧ i.wf s.cfg = false) := by
  unfold takeInReset
  rcases decode w with e | i
  · exact .inr ⟨⟨_, rfl⟩, .inl ⟨e, rfl⟩⟩
  · cases h : i.wf s.cfg
    · exact .inr ⟨⟨_, by simp only [h]; rfl⟩, .inr ⟨i, rfl, h⟩⟩
    · exact .inl ⟨by simp only [h]; rfl, i, rfl, h⟩

/-- A word that is not executed has been ignored in reset. -/
theorem takeWord_eq_settled {w : OpWord} {s t : State} (h : takeWord w s = .settled t) :
    s.rst = true ∧ t = s.held := by
  cases hr : s.rst
  · rw [takeWord_of_running hr] at h
    cases h
  · rw [takeWord, if_pos hr] at h
    rcases takeInReset_cases w s with ⟨h', -⟩ | ⟨⟨r, h'⟩, -⟩ <;> rw [h'] at h <;> cases h
    exact ⟨rfl, rfl⟩

/-- A word is executed out of reset only, as it stands and in the state it finds. -/
theorem takeWord_eq_operation {w w' : OpWord} {s t : State} (h : takeWord w s = .operation w' t) :
    s.rst = false ∧ w' = w ∧ t = s := by
  cases hr : s.rst
  · rw [takeWord_of_running hr] at h
    cases h
    exact ⟨rfl, rfl, rfl⟩
  · rw [takeWord, if_pos hr] at h
    rcases takeInReset_cases w s with ⟨h', -⟩ | ⟨⟨r, h'⟩, -⟩ <;> rw [h'] at h <;> cases h

end Sys2Proof.Machine
end

