-- ==== Sys2Proof/Laws/WellFormed.lean ====
section
/-! SUPPORT. What a legal configuration gives: its bounds, and an entry of `KEYMAP` for every cell. -/

namespace Sys2Proof

open Sys2Proof.Machine

/-- The bounds of a legal configuration (00_scope.md R5, R6, R9). -/
theorem Config.wf_bounds {c : Config} (h : c.wf = true) :
    (1 ≤ c.numRows ∧ c.numRows ≤ 5) ∧ (1 ≤ c.numCols ∧ c.numCols ≤ 5) ∧ c.debounceTicks ≠ 0#16 ∧
      c.nSkey ≤ 2 := by
  simp only [Config.wf, Config.rowsOk, Config.colsOk, Config.debounceOk, Config.skeysOk, Bool.and_eq_true,
    decide_eq_true_eq] at h
  exact ⟨h.1.1.1.1.1.1.1.1, h.1.1.1.1.1.1.2.1, h.1.1.1.1.2, h.1.1.2⟩

/-- A legal configuration has an entry of `KEYMAP` for each cell of the matrix (10_state.md R43). -/
theorem Config.wf_keymapAt {c : Config} (h : c.wf = true) {r k : Nat} (hr : r < c.numRows)
    (hk : k < c.numCols) : ∃ code, keymapAt c r k = some code := by
  simp only [Config.wf, Config.keymapOk, Bool.and_eq_true, decide_eq_true_eq, List.all_eq_true] at h
  obtain ⟨hlen, hrows⟩ := h.1.1.1.2
  rw [← hlen] at hr
  have := hrows _ (List.getElem_mem hr)
  exact ⟨c.keymap[r][k], by simp [keymapAt, hr, this, hk]⟩

/-- `C − 1` under a legal configuration. -/
theorem lastColumn_toNat {c : Config} (h : c.wf = true) : (lastColumn c).toNat = c.numCols - 1 := by
  have := (Config.wf_bounds h).2.1
  simp only [lastColumn, BitVec.toNat_ofNat]
  omega

end Sys2Proof
end

