-- ==== Sys2Proof/Tests/Slice0.lean ====
section
/-! SUPPORT. Own tests: `test_<what>`, whose expected results are the vectors of 95_test_vectors.md (named
V-... and P... below), and `witness_<Name>`, a state and operands that meet the premises of the statement
`Obligations.<Name>`, one for each of its clauses. -/

namespace Sys2Proof.Tests

set_option Elab.async false

open Sys2Proof.Machine Sys2Proof.Claims

/-! Configurations and states -/

def cfgA : Config := Config.cfgA
def cfgW (ticks : U16) : Config := { cfgA with powerOnWindowTicks := ticks }
def cfgC1 : Config :=
  { cfgA with
    rowPins := [0, 1], colPins := [4], numRows := 2, numCols := 1, keymap := [[0x11#8], [0x21#8]] }
def cfgP (debounce : U16) : Config :=
  { cfgA with polled := true, debounceTicks := debounce, powerOnWindowTicks := 5#16 }

/-- Every parameter at its largest: five rows and columns, two standalone keys, `DEBOUNCE_TICKS` 65535. -/
def cfgMax : Config :=
  { cfgA with
    rowPins := [0, 1, 2, 3, 8], colPins := [4, 5, 6, 9, 10], numRows := 5, numCols := 5
    debounceTicks := 65535#16
    keymap := [[0x11#8, 0x12#8, 0x13#8, 0x14#8, 0x15#8], [0x21#8, 0x22#8, 0x23#8, 0x24#8, 0x25#8],
               [0x31#8, 0x32#8, 0x33#8, 0x34#8, 0x35#8], [0x41#8, 0x42#8, 0x43#8, 0x44#8, 0x45#8],
               [0x51#8, 0x52#8, 0x53#8, 0x54#8, 0x55#8]]
    skeys := [{ pin := 7, code := 0x70#8 }, { pin := 11, code := 0x71#8, active := true }] }

def atReset : State := State.reset
def maxReset : State := State.resetOf cfgMax

/-- The pins are the peer's. -/
def withPeer (s : State) : State := { s with arb := { s.arb with owner := .externalPeer } }

/-- A scan of row `row` stands before column `col`. -/
def searching (row col : U8) (s : State) : State :=
  { s with scan := { s.scan with phase := .identifyButton, currentRow := row, currentColumn := col } }

/-- Key `k` of cell `(row, col)` is active in phase `p`, with `cnt` released steps counted. -/
def holding (p : Phase) (row col : U8) (k : KeyCode) (cnt : U16) (s : State) : State :=
  { s with
    scan := { phase := p, currentRow := row, currentColumn := col, activeValid := true, activeCode := k,
              releaseStableCount := cnt } }

/-- The latch holds the cell `(row, col)`. -/
def latched (row col : U8) (s : State) : State :=
  { s with latch := { s.latch with
      state := .capturedPending, rowValid := true, row := row, colValid := true, col := col } }

/-- The window has closed without a capture. -/
def windowClosed (s : State) : State := { s with latch := { s.latch with state := .none, deadline := 0#16 } }

/-- Standalone key 0 in this state. -/
def withKey (lastLevel idle : Bool) (s : State) : State :=
  { s with skeys := s.skeys.set 0 { lastLevel := lastLevel, idle := idle } }

/-- These inputs wait. -/
def waiting (is : List Input) (s : State) : State := { s with inputs := is }

/-- The reset input is high. -/
def inReset (c : Config) : State := (State.resetOf c).held

/-- What `f` reads in the next state, where there is one. -/
def seen {α : Type} (f : State → α) : Result → Option α
  | .next t => some (f t)
  | .fault _ => none
  | .refused _ => none

/-- Why the machine refuses, where it does. -/
def refusal : Result → Option Refusal
  | .refused r => some r
  | .next _ => none
  | .fault _ => none

/-- The event words of an operation (30_encoding.md R94). -/
def events (s : State) : List (BitVec 9) := s.out.events.map Event.word

/-- `(phase, row, col, active)` of the vectors. -/
structure Cursor where
  phase  : Phase
  row    : U8
  col    : U8
  active : Option KeyCode
  deriving DecidableEq, Repr

/-- `(phase, row, col, active)` of a state. -/
def cursor (s : State) : Cursor := ⟨s.scan.phase, s.scan.currentRow, s.scan.currentColumn, activeKey s⟩

/-- The decoded word, where it decodes. -/
def decoded (w : OpWord) : Option Instr := (decode w).toOption

/-! Well-formedness: one ill-formed term for each check, which that check refuses -/

theorem test_cfgs_legal :
    cfgA.wf = true ∧ (cfgW 0).wf = true ∧ cfgC1.wf = true ∧ (cfgP 2).wf = true ∧ cfgMax.wf = true := by
  decide

theorem test_no_rows_refused :
    Config.rowsOk { cfgA with numRows := 0, rowPins := [] } = false ∧
    Config.rowsOk { cfgA with numRows := 6, rowPins := [0, 1, 2, 3, 8, 9] } = false ∧
    Config.rowsOk { cfgA with rowPins := [0, 1, 2] } = false := by decide

theorem test_columns_out_of_range_refused :
    Config.colsOk { cfgA with numCols := 0, colPins := [] } = false ∧
    Config.colsOk { cfgA with numCols := 6, colPins := [4, 5, 6, 7, 8, 9] } = false ∧
    Config.colsOk { cfgA with colPins := [4, 5] } = false := by decide

theorem test_shared_pin_refused : Config.pinsOk { cfgA with colPins := [3, 5, 6] } = false := by decide

theorem test_zero_threshold_refused : Config.debounceOk { cfgA with debounceTicks := 0#16 } = false := by
  decide

theorem test_short_keymap_refused :
    Config.keymapOk { cfgA with keymap := [] } = false ∧
    Config.keymapOk { cfgA with keymap := [[1#8], [2#8], [3#8], [4#8]] } = false := by decide

theorem test_third_standalone_key_refused :
    Config.skeysOk { cfgA with skeys := [⟨7, 1#8, true⟩, ⟨8, 2#8, true⟩, ⟨9, 3#8, true⟩] } = false := by
  decide

theorem test_active_level_one_refused :
    Config.levelsOk { cfgA with rowActiveLevel := true } = false ∧
    Config.levelsOk { cfgA with colActiveLevel := true } = false := by decide

theorem test_other_release_timeout_refused :
    Config.releaseTimeoutOk { cfgA with releaseTimeoutTicks := 251#16 } = false := by decide

theorem test_each_check_counts :
    Config.wf { cfgA with rowActiveLevel := true } = false ∧
    Config.wf { cfgA with releaseTimeoutTicks := 0#16 } = false ∧
    Config.wf { cfgA with numRows := 0, rowPins := [], keymap := [] } = false ∧
    Config.wf { cfgA with colPins := [3, 5, 6] } = false ∧
    Config.wf { cfgA with debounceTicks := 0#16 } = false ∧
    Config.wf { cfgA with keymap := [] } = false ∧
    Config.wf { cfgA with skeys := [⟨7, 1#8, true⟩, ⟨8, 2#8, true⟩, ⟨9, 3#8, true⟩] } = false := by decide

theorem test_operand_out_of_range_ill_formed :
    Instr.wf cfgA (.edge 4 .asserted) = false ∧ Instr.wf cfgA (.rel 0b10000 .asserted) = false ∧
    Instr.wf cfgA (.sedge 1 true) = false ∧ Instr.wf cfgA (.stick 1 true) = false ∧
    Instr.wf cfgA (.ptick 0b10000) = false := by decide

theorem test_operand_in_range_well_formed :
    Instr.wf cfgMax (.edge 4 .asserted) = true ∧ Instr.wf cfgMax (.rel 0b10000 .asserted) = true ∧
    Instr.wf cfgMax (.sedge 1 true) = true ∧ Instr.wf cfgMax (.ptick 0b11111) = true ∧
    Instr.wf cfgA (.supp 31) = true := by decide

/-! Decoding: one word of each operation, written out from the format tables of 30_encoding.md R91 -/

theorem test_decode_nop : decoded 0b0000000000000000#16 = some .nop := by decide
theorem test_decode_edge : decoded 0b0001001000000011#16 = some (.edge 2 ⟨true, true, false⟩) := by decide
theorem test_decode_step : decoded 0b0010000000000100#16 = some (.step ⟨false, false, true⟩) := by decide
theorem test_decode_wtick : decoded 0b0011000000000000#16 = some .wtick := by decide
theorem test_decode_req : decoded 0b0100000000000000#16 = some .req := by decide
theorem test_decode_rel : decoded 0b0101000101000001#16 = some (.rel 0b10100 ⟨true, false, false⟩) := by
  decide
theorem test_decode_rdkey : decoded 0b0110000000000000#16 = some .rdkey := by decide
theorem test_decode_rdrc : decoded 0b0111000000000000#16 = some .rdrc := by decide
theorem test_decode_kstate : decoded 0b1000000010110001#16 = some (.kstate 0xB1) := by decide
theorem test_decode_supp : decoded 0b1001000000011111#16 = some (.supp 31) := by decide
theorem test_decode_alt : decoded 0b1010000000010010#16 = some (.alt 18) := by decide
theorem test_decode_sedge : decoded 0b1011000100000000#16 = some (.sedge 1 false) := by decide
theorem test_decode_stick : decoded 0b1100000000000001#16 = some (.stick 0 true) := by decide
theorem test_decode_ptick : decoded 0b1101000100110000#16 = some (.ptick 0b10011) := by decide

/-- V-30-3, V-30-5, V-30-7, V-30-10, V-30-11, V-30-13, V-30-14. -/
theorem test_decode_vectors :
    decoded 0x1407#16 = some (.edge 4 .asserted) ∧ decoded 0x2005#16 = some (.step ⟨true, false, true⟩) ∧
    decoded 0x5047#16 = some (.rel 0b00100 .asserted) ∧ decoded 0x8032#16 = some (.kstate 0x32) ∧
    decoded 0x901F#16 = some (.supp 31) ∧ decoded 0xB101#16 = some (.sedge 1 true) ∧
    decoded 0xD020#16 = some (.ptick 0b00010) := by decide

/-- V-30-4, V-30-6, V-30-9, V-30-12, V-30-16. -/
theorem test_reserved_bits_rejected :
    decode 0x1807#16 = .error .reservedBits ∧ decode 0x2008#16 = .error .reservedBits ∧
    decode 0x5008#16 = .error .reservedBits ∧ decode 0x9020#16 = .error .reservedBits ∧
    decode 0x3001#16 = .error .reservedBits ∧ decode 0x4800#16 = .error .reservedBits ∧
    decode 0x6010#16 = .error .reservedBits := by decide

/-- V-30-15. -/
theorem test_reserved_opcodes_rejected :
    decode 0xE000#16 = .error .reservedOpcode ∧ decode 0xF123#16 = .error .reservedOpcode := by decide

theorem test_table_words :
    decodeTableWord 16 0x1305 = some (.edge 3 ⟨true, false, true⟩) ∧ decodeTableWord 16 0xE000 = none := by
  decide

/-- The first instruction after reset runs from `withFetchWord`: the live edge of P4. -/
theorem test_fetch_word_runs : seen events (step (atReset.withFetchWord 16 0x1107)) = some [0x123#9] := by
  decide

/-- The words of P1 under their text forms (30_encoding.md R98). -/
theorem test_text :
    Instr.text (.edge 2 .released) = "EDGE r=2 s=0" ∧ Instr.text (.rel 2 .asserted) = "REL rows=2 s=7" ∧
    Instr.text (.sedge 0 true) = "SEDGE n=0 lvl=1" := by decide

/-! One step of each operation -/

/-- V-40-11. -/
theorem test_nop : seen cursor (exec .nop (searching 2 1 atReset)) =
    some ⟨.identifyButton, 2, 1, none⟩ := by decide

/-- V-40-1, first line. -/
theorem test_edge_confirms :
    seen (fun t => (events t, cursor t, t.latch.state)) (exec (.edge 0 .asserted) atReset) =
      some ([0x113#9], ⟨.releasePending, 0, 2, some 0x13#8⟩, .capturedPending) := by decide

/-- V-40-7, first line. -/
theorem test_edge_spurious_with_one_column :
    seen (fun t => (events t, cursor t, t.latch.state)) (exec (.edge 1 .released) (State.resetOf cfgC1)) =
      some ([], ⟨.idle, 1, 0, none⟩, .none) := by decide

/-- V-40-3: six is not seven. -/
theorem test_step_needs_three_samples :
    seen (fun t => (events t, cursor t, t.latch.state))
      (exec (.step ⟨false, true, true⟩) (searching 2 0 atReset)) =
      some ([], ⟨.idle, 2, 0, none⟩, .none) := by decide

/-- V-40-9, the fifth line: the release of a key that is still down, and a rescan from the last column. -/
theorem test_step_key_change :
    seen (fun t => (events t, cursor t))
      (exec (.step ⟨true, false, false⟩) (holding .checkForKeyChange 0 2 0x13#8 3#16 atReset)) =
      some ([0x013#9], ⟨.identifyButton, 0, 2, none⟩) := by decide

/-- V-42-1. -/
theorem test_wtick :
    seen (fun t => (t.latch.state, t.latch.deadline)) (exec .wtick (State.resetOf (cfgW 2))) =
      some (.armed, 1#16) ∧
    seen (fun t => (t.latch.state, t.latch.deadline)) (exec .wtick (State.resetOf (cfgW 1))) =
      some (.none, 0#16) := by decide

/-- V-41-6, first two lines. -/
theorem test_req :
    seen (fun t => (t.arb.owner, t.arb.arbFault)) (exec .req atReset) = some (.externalPeer, false) ∧
    seen (fun t => (t.arb.owner, t.arb.arbFault)) (exec .req (withPeer atReset)) =
      some (.externalPeer, true) := by decide

/-- V-41-4: the lowest of two asserted rows. -/
theorem test_rel_polls_the_lowest_row :
    seen (fun t => (events t, cursor t, t.arb.owner)) (exec (.rel 0b01010 .asserted) (withPeer atReset)) =
      some ([0x123#9], ⟨.releasePending, 1, 2, some 0x23#8⟩, .scanner) := by decide

/-- V-41-5: in `ReleasePending` the operands are ignored and the count is kept. -/
theorem test_rel_mid_cycle :
    seen (fun t => (events t, cursor t, t.scan.releaseStableCount, t.arb.owner))
      (exec (.rel 0b00001 .asserted) (withPeer (holding .releasePending 0 2 0x13#8 2#16 atReset))) =
      some ([], ⟨.releasePending, 0, 2, some 0x13#8⟩, 2#16, .scanner) := by decide

/-- E4, and V-42-4 while the window is open. -/
theorem test_rdkey :
    seen (fun t => (t.out.res, t.latch.state)) (exec .rdkey (latched 2 1 atReset)) =
      some (some 0x0132#16, .consumed) ∧
    seen (fun t => (t.out.res, t.latch.state)) (exec .rdkey atReset) = some (some 0x0000#16, .armed) := by
  decide

/-- V-42-3. -/
theorem test_rdrc :
    seen (fun t => (t.out.res, t.latch.state)) (exec .rdrc (latched 2 2 atReset)) =
      some (some 0x0122#16, .consumed) := by decide

/-- V-43-1. -/
theorem test_kstate :
    seen (fun t => t.out.res) (exec (.kstate 0x32) (holding .checkForKeyChange 2 1 0x32#8 3#16 atReset)) =
      some (some 0x0001#16) ∧
    seen (fun t => t.out.res) (exec (.kstate 0x31) (holding .releasePending 2 1 0x32#8 0#16 atReset)) =
      some (some 0x0000#16) := by decide

/-- V-43-2. -/
theorem test_supp :
    seen (fun t => t.out.res) (exec (.supp 11) atReset) = some (some 0x0043#16) ∧
    seen (fun t => t.out.res) (exec (.supp 25) atReset) = some (some 0x0000#16) := by decide

/-- V-43-2. -/
theorem test_alt :
    seen (fun t => t.out.res) (exec (.alt 1) atReset) = some (some 0x0045#16) ∧
    seen (fun t => t.out.res) (exec (.alt 31) atReset) = some (some 0x0000#16) := by decide

/-- V-44-1, first line, and V-44-4. -/
theorem test_sedge :
    seen (fun t => t.skeys) (exec (.sedge 0 false) atReset) = some [⟨true, false⟩] ∧
    seen (fun t => t.skeys) (exec (.sedge 0 true) (withKey false false atReset)) =
      some [⟨false, false⟩] := by decide

/-- V-44-1: the press is reported and the timer stays armed. -/
theorem test_stick_reports :
    seen (fun t => (events t, t.skeys)) (exec (.stick 0 false) (withKey true false atReset)) =
      some ([0x170#9], [⟨false, false⟩]) := by decide

/-- V-44-2: a glitch. -/
theorem test_stick_glitch :
    seen (fun t => (events t, t.skeys)) (exec (.stick 0 true) (withKey true false atReset)) =
      some ([], [⟨true, true⟩]) := by decide

/-- V-45-3, first line: two rows in one tick, the first press latched. -/
theorem test_ptick_two_rows :
    seen (fun t => (events t, t.poll.col, t.latch.row)) (exec (.ptick 0b00101) (State.resetOf (cfgP 1))) =
      some ([0x111#9, 0x131#9], 1#8, 0#8) := by decide

/-- V-45-1, first line: a change counts before it is reported. -/
theorem test_ptick_counts :
    seen (fun t => (events t, cellAt t.poll 0 0)) (exec (.ptick 0b00001) (State.resetOf (cfgP 2))) =
      some ([], some ⟨false, 1#16⟩) := by decide

/-- V-30-8, and V-30-15 at the operation port. -/
theorem test_illegal_words_refused :
    refusal (step (waiting [.word 0x5107#16] atReset)) = some .illegalOperand ∧
    refusal (step (waiting [.word 0xE000#16] atReset)) = some (.illegalWord .reservedOpcode) := by decide

/-- In reset the illegal words are refused (R96) and a legal one is ignored (R250). -/
theorem test_illegal_words_refused_in_reset :
    refusal (step (waiting [.word 0x5107#16] (inReset cfgA))) = some .illegalOperand ∧
    refusal (step (waiting [.strobe (.query 0xF#4 0x123#12)] (inReset cfgA))) =
      some (.illegalWord .reservedOpcode) ∧
    seen (fun t => (t.out.res, t.rst)) (step (waiting [.word 0x6000#16] (inReset cfgA))) =
      some (none, true) := by decide

/-- The samples of a tick are those of `current_row`, here row 2, low in the first and the third reading
(20_memory.md R62, R67). -/
theorem test_scan_tick_samples_the_current_row :
    strobeWord (searching 2 1 atReset) (.scanTick 0b11011 0b11111 0b00011) = some 0x2005#16 ∧
    strobeWord (holding .releasePending 2 1 0x32#8 0#16 atReset) (.scanTick 0b11011 0b00000 0b00000) =
      some 0x2001#16 := by decide

/-- The lowest of rows 1 and 3 is sampled, and none in mid-cycle (R62). -/
theorem test_peer_release_samples_the_lowest_row :
    strobeWord (withPeer atReset) (.peerRel 0b10101 0b11101 0b10111 0b11101) = some 0x50A5#16 ∧
    strobeWord (withPeer (searching 2 1 atReset)) (.peerRel 0b10101 0 0 0) = some 0x50A0#16 := by decide

/-- A poll strobe reads the rows while the scanner owns the pins, and no pin under the peer (R67;
41_shared_pin_arbiter.md R154). -/
theorem test_poll_samples_only_own_pins :
    strobeWord (State.resetOf (cfgP 2)) (.pollTick 0b01101) = some 0xD020#16 ∧
    sampledUnder (State.resetOf (cfgP 2)) 0 (.pollTick 0b01101) = true ∧
    strobeWord (withPeer (State.resetOf (cfgP 2))) (.pollTick 0b01101) = some 0xD000#16 ∧
    sampledUnder (withPeer (State.resetOf (cfgP 2))) 0 (.pollTick 0b01101) = false := by decide

/-- While `rst = 0` a new configuration is refused, and the one already held is no change
(70_reset_and_hazards.md R269). -/
theorem test_configuration_out_of_reset :
    refusal (step (waiting [.configure cfgMax] (searching 2 1 atReset))) = some .configurationChanged ∧
    seen id (step (waiting [.configure cfgA] (searching 2 1 atReset))) = some (searching 2 1 atReset) := by
  decide

/-- The codes of the enumerations (30_encoding.md R100). -/
theorem test_codes :
    Phase.code .releaseDetected = 4#3 ∧ Owner.code .externalPeer = 1#1 ∧ LatchState.code .consumed = 3#2 := by
  decide

/-! Witnesses: states that meet the invariant -/

def ident (col : U8) : State := searching 2 col atReset
def pending (cnt : U16) : State := latched 0 2 (holding .releasePending 0 2 0x13#8 cnt atReset)
def checking : State := latched 0 2 (holding .checkForKeyChange 0 2 0x13#8 3#16 atReset)
def polledReset : State := State.resetOf (cfgP 2)
def polledOne : State := State.resetOf (cfgP 1)
/-- The cell `(3, 0)` is pressed while the window is open, which the invariant allows and no run reaches: a press
reported in an open window is latched. One poll reports a change. -/
def polledHeld : State :=
  { polledOne with
    poll := { polledOne.poll with
      cells := polledOne.poll.cells.set 3 [⟨true, 0#16⟩, ⟨false, 0#16⟩, ⟨false, 0#16⟩] } }
def maxPending (cnt : U16) : State := latched 4 4 (holding .releasePending 4 4 0x55#8 cnt maxReset)

theorem reset_invariant : Invariant atReset := by constructor <;> decide
theorem max_invariant : Invariant maxReset := by constructor <;> decide
theorem c1_invariant : Invariant (State.resetOf cfgC1) := by constructor <;> decide
theorem w0_invariant : Invariant (State.resetOf (cfgW 0)) := by constructor <;> decide
theorem ident_invariant : Invariant (ident 2) := by constructor <;> decide
theorem ident_zero_invariant : Invariant (ident 0) := by constructor <;> decide
theorem max_ident_invariant : Invariant (searching 4 4 maxReset) := by constructor <;> decide
theorem pending_invariant : Invariant (pending 2) := by constructor <;> decide
theorem pending_fresh_invariant : Invariant (pending 0) := by constructor <;> decide
theorem max_pending_invariant : Invariant (maxPending 65534) := by constructor <;> decide
theorem checking_invariant : Invariant checking := by constructor <;> decide
theorem polled_invariant : Invariant polledReset := by constructor <;> decide
theorem polled_one_invariant : Invariant polledOne := by constructor <;> decide
theorem polled_held_invariant : Invariant polledHeld := by constructor <;> decide
theorem checking_armed_invariant : Invariant (holding .checkForKeyChange 0 2 0x13#8 3#16 atReset) := by
  constructor <;> decide
theorem peer_c1_invariant : Invariant (withPeer (State.resetOf cfgC1)) := by constructor <;> decide
theorem w1_invariant : Invariant (State.resetOf (cfgW 1)) := by constructor <;> decide
theorem peer_invariant : Invariant (withPeer atReset) := by constructor <;> decide
theorem peer_polled_invariant : Invariant (withPeer polledReset) := by constructor <;> decide
theorem peer_max_invariant : Invariant (withPeer maxReset) := by constructor <;> decide
theorem peer_ident_invariant : Invariant (withPeer (ident 1)) := by constructor <;> decide
theorem latched_invariant : Invariant (latched 2 1 atReset) := by constructor <;> decide
theorem held_invariant : Invariant (inReset cfgA) := by constructor <;> decide
theorem key_invariant : Invariant (withKey true false atReset) := by constructor <;> decide

/-! Witnesses: premises of the statements, in their order -/

theorem witness_EncodeOfDecode : decode 0xFFFF#16 = .error .reservedOpcode ∧
    decode 0x1F07#16 = .error .reservedBits ∧ decode 0x1707#16 = .ok (.edge 7 .asserted) := by decide

theorem witness_DecodeFollowsTheOpcodeMap :
    (⟨"EDGE", 0x1000#16, 0xF8F8#16⟩ : OpcodeRow) ∈ opcodeMap ∧ 0x1707#16 &&& 0xF8F8#16 = 0x1000#16 ∧
    0x1807#16 &&& 0xF8F8#16 ≠ 0x1000#16 := by decide

/-- A word that matches a row and decodes to an operation with operands in range is legal. -/
theorem not_illegal {c : Config} {w : OpWord} {row : OpcodeRow} {i : Instr} (hrow : row ∈ opcodeMap)
    (hm : w &&& row.mask = row.pattern) (hd : decode w = .ok i) (hw : i.wf c = true) : ¬ Illegal c w := by
  rintro (h | ⟨j, hj, hjw⟩)
  · exact h row hrow hm
  · rw [hd] at hj
    cases hj
    rw [hw] at hjw
    cases hjw

theorem witness_ExactlyIllegalWordsAreRefused :
    ¬ Faulted atReset ∧ ¬ Faulted (inReset cfgA) ∧
    (waiting [.word 0x1407#16] atReset).inputs = [.word 0x1407#16] ∧
    (waiting [.strobe (.query 0x6#4 0#12)] (inReset cfgA)).inputs = [.strobe (.query 0x6#4 0#12)] ∧
    0x6000#16 = 0x6#4 ++ 0#12 ∧
    Illegal cfgA 0x1407#16 ∧ Illegal cfgA 0xE000#16 ∧ Illegal cfgA 0x1807#16 ∧ ¬ Illegal cfgA 0x0000#16 := by
  exact ⟨by decide, by decide, rfl, rfl, rfl, .inr ⟨.edge 4 .asserted, rfl, by decide⟩,
    .inl (by decide), .inl (by decide),
    not_illegal (row := ⟨"NOP", 0x0000#16, 0xFFFF#16⟩) (by decide) rfl (i := .nop) rfl rfl⟩

theorem witness_StepRunsTheDecodedOperation :
    ¬ Faulted atReset ∧ (waiting [.word 0x1307#16, .rst true] atReset).inputs = .word 0x1307#16 :: [.rst true] ∧
    atReset.rst = false ∧ decode 0x1307#16 = .ok (.edge 3 .asserted) :=
  ⟨by decide, rfl, rfl, rfl⟩

theorem witness_StepWaitsForAnInput : ¬ Faulted atReset ∧ atReset.inputs = [] ∧ atReset.rst = false := 
  ⟨by decide, rfl, rfl⟩

/-- An edge of row 3 is delivered and one of the missing row 4 is not. -/
theorem witness_StepTurnsAStrobeIntoItsWord :
    ¬ Faulted atReset ∧ ¬ Faulted polledReset ∧ ¬ Faulted (withPeer polledReset) ∧
    (waiting [.strobe .winTick] atReset).inputs = [.strobe .winTick] ∧ atReset.rst = false ∧
    strobeWord atReset (.rowEdge 3 0b10111 0b00000 0b00111) = some 0x1307#16 ∧
    decode 0x1307#16 = .ok (.edge 3 .asserted) ∧
    strobeWord atReset (.rowEdge 4 0 0 0) = none ∧ strobeWord atReset (.scanTick 0 0 0) = none ∧
    timerArmed (ident 2) = true ∧ irqEn atReset = true ∧ atReset.scan.phase = .idle ∧
    polledReset.cfg.polled = true ∧ polledReset.arb.owner = .scanner ∧
    (withPeer polledReset).arb.owner = .externalPeer ∧ skIrqEn maxReset 1 = true ∧
    skTimerArmed (withKey true false atReset) 0 = true := by decide

/-- The rows a strobe reads: one reading in which rows 1 and 3 are low, of CFG-A and of five rows. -/
theorem witness_StepTurnsAStrobeIntoItsWord_rows :
    Invariant maxReset ∧ Invariant polledReset ∧ Invariant (withPeer polledReset) ∧ Invariant (ident 2) ∧
    (ident 2).scan.phase ≠ .idle ∧ RowsRead cfgA 0b10101 0b01010 ∧ IsLowest 0b01010 1 ∧
    RowsRead cfgMax 0b01111 0b10000 ∧ IsLowest 0b10000 4 :=
  ⟨max_invariant, polled_invariant, peer_polled_invariant, ident_invariant, by decide, by unfold RowsRead; decide,
    ⟨rfl, by decide⟩, by unfold RowsRead; decide, rfl, by decide⟩

theorem witness_StrobesMakeLegalWords :
    ¬ Faulted atReset ∧ Invariant atReset ∧
    strobeWord atReset (.rowEdge 3 0b10111 0b01000 0b00000) = some 0x1305#16 ∧
    strobeWord atReset (.query 0x8#4 0x032#12) = some 0x8032#16 ∧
    strobeWord atReset (.peerRel 0b11101 0b11101 0b01101 0) = some 0x5027#16 :=
  ⟨by decide, reset_invariant, by decide, by decide, by decide⟩

/-- The last standalone key, row and column of the largest configuration. -/
theorem witness_ResetLeavesTheStatedValues :
    cfgMax.skeys[1]? = some ⟨11, 0x71#8, true⟩ ∧ 4 < cfgMax.numRows ∧ 4 < cfgMax.numCols ∧
    1 < cfgMax.nSkey := by decide

theorem witness_ResetHoldsEveryField :
    (waiting [.rst true] checking).inputs = [.rst true] ∧ (inReset cfgA).rst = true ∧
    (waiting [.word 0x1307#16] (inReset cfgA)).inputs = [.word 0x1307#16] ∧
    (waiting [.strobe .peerReq] (inReset cfgA)).inputs = [.strobe .peerReq] ∧
    (waiting [.strobe (.query 0x8#4 0x032#12)] (inReset cfgA)).inputs = [.strobe (.query 0x8#4 0x032#12)] ∧
    (waiting [.rst false] (inReset cfgA)).inputs = [.rst false] ∧
    ¬ Illegal cfgA 0x1307#16 ∧ ¬ Illegal cfgA (0x8#4 ++ 0x032#12) :=
  ⟨rfl, rfl, rfl, rfl, rfl, rfl,
    not_illegal (row := ⟨"EDGE", 0x1000#16, 0xF8F8#16⟩) (by decide) rfl (i := .edge 3 .asserted) rfl rfl,
    not_illegal (row := ⟨"KSTATE", 0x8000#16, 0xFF00#16⟩) (by decide) rfl (i := .kstate 0x32) rfl rfl⟩

theorem witness_ConfigurationChangesOnlyInReset :
    (waiting [.configure cfgMax] (inReset cfgA)).inputs = [.configure cfgMax] ∧ cfgMax.wf = true ∧
    (inReset cfgA).rst = true ∧ ¬ Faulted (waiting [.configure cfgMax] atReset) ∧
    (waiting [.configure cfgMax] atReset).rst = false ∧ cfgMax ≠ atReset.cfg ∧
    (waiting [.configure cfgA] atReset).inputs = [.configure cfgA] ∧ cfgA.wf = true ∧
    cfgA = atReset.cfg := by decide

theorem witness_ResetMeetsTheInvariant : cfgMax.wf = true ∧ (cfgP 1).wf = true := by decide

theorem witness_StepKeepsTheInvariant :
    ¬ Faulted (atReset.withFetchWord 16 0x1107) ∧ Invariant (atReset.withFetchWord 16 0x1107) ∧
    ∃ t, step (atReset.withFetchWord 16 0x1107) = .next t :=
  ⟨by decide, by constructor <;> decide, _, rfl⟩

theorem witness_EveryLegalOperationCompletes :
    ¬ Faulted maxReset ∧ Invariant maxReset ∧ Instr.wf maxReset.cfg (.edge 4 .asserted) = true ∧
    Instr.wf maxReset.cfg (.ptick 0b11111) = true :=
  ⟨by decide, max_invariant, by decide, by decide⟩

theorem witness_EnablesFollowTheState :
    ¬ Faulted atReset ∧ ¬ Faulted maxReset ∧ ¬ Faulted (withKey true false maxReset) ∧
    timerArmed atReset = false ∧ maxReset.skeys[1]? = some ⟨false, true⟩ ∧
    (withKey true false maxReset).skeys[0]? = some ⟨true, false⟩ := 
  ⟨by decide, by decide, by decide, rfl, rfl, rfl⟩

theorem witness_ColumnsFollowTheState :
    (¬ Faulted polledReset ∧ ¬ Faulted atReset ∧ ¬ Faulted (ident 2) ∧ ¬ Faulted (pending 0) ∧
      ¬ Faulted checking ∧ ¬ Faulted (withPeer atReset)) ∧
    polledReset.cfg.polled = true ∧ atReset.cfg.polled = false ∧ (ident 2).scan.phase = .identifyButton ∧
    (pending 0).scan.phase = .releasePending ∧ atReset.scan.phase = .idle ∧
    checking.scan.phase = .checkForKeyChange ∧ (withPeer atReset).arb.owner = .externalPeer ∧
    atReset.arb.owner = .scanner :=
  ⟨by decide, rfl, rfl, rfl, rfl, rfl, rfl, rfl, rfl⟩

theorem witness_NopChangesNothing : ¬ Faulted checking := by decide

theorem witness_EdgeIgnoredWhileMasked :
    ¬ Faulted maxReset ∧ ¬ Faulted polledReset ∧ ¬ Faulted (ident 2) ∧ ¬ Faulted (withPeer atReset) ∧
    (4#3).toNat < maxReset.cfg.numRows ∧ polledReset.cfg.polled = true ∧ (ident 2).scan.phase ≠ .idle ∧
    (withPeer atReset).arb.owner = .externalPeer := by decide

theorem witness_EdgeConfirmsInTheLastColumn :
    ¬ Faulted maxReset ∧ Invariant maxReset ∧ (4#3).toNat < maxReset.cfg.numRows ∧ ArmedIn .idle maxReset :=
  ⟨by decide, max_invariant, by decide, ⟨rfl, rfl⟩, rfl⟩

/-- More than one column, and one column. -/
theorem witness_EdgeFailsTheLastColumn :
    ¬ Faulted atReset ∧ ¬ Faulted (State.resetOf cfgC1) ∧
    (Invariant atReset ∧ (3#3).toNat < atReset.cfg.numRows ∧ ArmedIn .idle atReset ∧ 1 < atReset.cfg.numCols) ∧
    (Invariant (State.resetOf cfgC1) ∧ (1#3).toNat < cfgC1.numRows ∧ ArmedIn .idle (State.resetOf cfgC1) ∧
      ¬ 1 < cfgC1.numCols) ∧ (⟨true, true, false⟩ : Samples) ≠ ⟨true, true, true⟩ :=
  ⟨by decide, by decide, ⟨reset_invariant, by decide, ⟨⟨rfl, rfl⟩, rfl⟩, by decide⟩,
    ⟨c1_invariant, by decide, ⟨⟨rfl, rfl⟩, rfl⟩, by decide⟩, by decide⟩

theorem witness_StepIgnoredWhileDisarmed :
    ¬ Faulted polledReset ∧ ¬ Faulted atReset ∧ ¬ Faulted (withPeer (ident 2)) ∧
    polledReset.cfg.polled = true ∧ atReset.scan.phase = .idle ∧
    (withPeer (ident 2)).arb.owner = .externalPeer := 
  ⟨by decide, by decide, by decide, rfl, rfl, rfl⟩

theorem witness_ColumnStepConfirmsThePress :
    ¬ Faulted (searching 4 4 maxReset) ∧ ¬ Faulted (ident 0) ∧
    (Invariant (searching 4 4 maxReset) ∧ ArmedIn .identifyButton (searching 4 4 maxReset)) ∧
    Invariant (ident 0) ∧ ArmedIn .identifyButton (ident 0) :=
  ⟨by decide, by decide, ⟨max_ident_invariant, ⟨rfl, rfl⟩, rfl⟩, ident_zero_invariant, ⟨rfl, rfl⟩, rfl⟩

/-- Before column 2, and before column 0. -/
theorem witness_ColumnStepFailsTheColumn :
    ¬ Faulted (ident 2) ∧ ¬ Faulted (ident 0) ∧
    (Invariant (ident 2) ∧ ArmedIn .identifyButton (ident 2) ∧ (ident 2).scan.currentColumn ≠ 0#8) ∧
    (Invariant (ident 0) ∧ ArmedIn .identifyButton (ident 0) ∧ (ident 0).scan.currentColumn = 0#8) ∧
    (⟨false, true, true⟩ : Samples) ≠ ⟨true, true, true⟩ :=
  ⟨by decide, by decide, ⟨ident_invariant, ⟨⟨rfl, rfl⟩, rfl⟩, by decide⟩,
    ⟨ident_zero_invariant, ⟨⟨rfl, rfl⟩, rfl⟩, rfl⟩, by decide⟩

/-- The count at both ends of its range, for `DEBOUNCE_TICKS` 3 and 65535. -/
theorem witness_ReleasePendingCounts :
    ¬ Faulted (pending 0) ∧ ¬ Faulted (pending 2) ∧ ¬ Faulted (maxPending 65534) ∧
    ArmedIn .releasePending (pending 0) ∧ ArmedIn .releasePending (pending 2) ∧
    ArmedIn .releasePending (maxPending 65534) :=
  ⟨by decide, by decide, by decide, ⟨⟨rfl, rfl⟩, rfl⟩, ⟨⟨rfl, rfl⟩, rfl⟩, ⟨rfl, rfl⟩, rfl⟩

theorem witness_KeyChangeReportsTheRelease :
    ¬ Faulted checking ∧ Invariant checking ∧ ArmedIn .checkForKeyChange checking :=
  ⟨by decide, checking_invariant, ⟨rfl, rfl⟩, rfl⟩

theorem witness_RequestHandsThePinsOver :
    ¬ Faulted (ident 1) ∧ (ident 1).arb.owner = .scanner ∧ ∃ t, exec .req (ident 1) = .next t :=
  ⟨by decide, rfl, _, rfl⟩

/-- In mid-cycle with every row asserted, in the polled variant, and in `Idle` with no row asserted. -/
theorem witness_ReleaseResumesWhereItStopped :
    ¬ Faulted (withPeer (ident 1)) ∧ ¬ Faulted (withPeer polledReset) ∧ ¬ Faulted (withPeer atReset) ∧
    ((15#5).toNat < 2 ^ cfgA.numRows ∧ (withPeer (ident 1)).arb.owner = .externalPeer ∧
      (withPeer (ident 1)).scan.phase ≠ .idle) ∧
    ((withPeer polledReset).arb.owner = .externalPeer ∧ (withPeer polledReset).cfg.polled = true) ∧
    (withPeer atReset).arb.owner = .externalPeer ∧ (withPeer atReset).scan.phase = .idle := by decide

/-- The highest row of the largest configuration, alone. -/
theorem witness_PollActsAsTheMissedEdge :
    ¬ Faulted (withPeer maxReset) ∧ Invariant (withPeer maxReset) ∧
    (0b10000#5).toNat < 2 ^ (withPeer maxReset).cfg.numRows ∧
    (withPeer maxReset).cfg.polled = false ∧ (withPeer maxReset).arb.owner = .externalPeer ∧
    (withPeer maxReset).scan.phase = .idle ∧ (0b10000#5).getLsbD (4#3).toNat = true ∧
    ∀ q < (4#3).toNat, (0b10000#5).getLsbD q = false :=
  ⟨by decide, peer_max_invariant, by decide, rfl, rfl, rfl, rfl, by decide⟩

theorem witness_MisuseOnlySetsTheFlag :
    ¬ Faulted (withPeer atReset) ∧ ¬ Faulted atReset ∧
    (withPeer atReset).arb.owner = .externalPeer ∧ atReset.arb.owner = .scanner ∧
    (15#5).toNat < 2 ^ cfgA.numRows ∧
    ∃ t, exec .req (withPeer atReset) = .next t ∧ Faulted t ∧ ∃ u, exec .nop t = .next u :=
  ⟨by decide, by decide, rfl, rfl, by decide, _, rfl, rfl, _, rfl⟩

/-- An open window at its last tick and before it, and a closed one. -/
theorem witness_WindowTickCountsDown :
    ¬ Faulted (State.resetOf (cfgW 1)) ∧ (State.resetOf (cfgW 1)).latch.deadline ≤ 1#16 ∧
    ¬ Faulted (State.resetOf (cfgW 2)) ∧ ¬ (State.resetOf (cfgW 2)).latch.deadline ≤ 1#16 ∧
    ¬ Faulted (State.resetOf (cfgW 0)) ∧ (State.resetOf (cfgW 0)).latch.state = .none := by decide

theorem witness_RdkeyAnswersOnce :
    ¬ Faulted (latched 2 1 atReset) ∧ ¬ Faulted atReset ∧
    (Invariant (latched 2 1 atReset) ∧ (latched 2 1 atReset).latch.state = .capturedPending) ∧
    Invariant atReset ∧ atReset.latch.state ≠ .capturedPending :=
  ⟨by decide, by decide, ⟨latched_invariant, rfl⟩, reset_invariant, by decide⟩

theorem witness_RdrcAnswersOnce :
    ¬ Faulted (latched 2 1 atReset) ∧ ¬ Faulted atReset ∧
    (latched 2 1 atReset).latch.state = .capturedPending ∧ atReset.latch.state ≠ .capturedPending := by decide

theorem witness_SecondReadAnswersNone :
    ¬ Faulted (latched 2 1 atReset) ∧ ¬ Faulted (latched 3 2 atReset) ∧
    (∃ t, exec .rdkey (latched 2 1 atReset) = .next t) ∧ ∃ t, exec .rdrc (latched 3 2 atReset) = .next t :=
  ⟨by decide, by decide, ⟨_, rfl⟩, _, rfl⟩

theorem witness_KstateAnswersTheDebouncedState :
    ¬ Faulted checking ∧ ¬ Faulted polledReset ∧
    checking.cfg.polled = false ∧ polledReset.cfg.polled = true := 
  ⟨by decide, by decide, rfl, rfl⟩

/-- An entry of each table, and an index beyond them. -/
theorem witness_SuppAnswersTheTable :
    ¬ Faulted atReset ∧ atReset.cfg.keysPresent[(11#5).toNat]? = some 0x43#8 ∧
    atReset.cfg.keysPresent[(31#5).toNat]? = none := by decide

theorem witness_AltAnswersTheTable :
    ¬ Faulted atReset ∧ atReset.cfg.altKeys[(1#5).toNat]? = some 0x45#8 ∧
    atReset.cfg.altKeys[(31#5).toNat]? = none := by decide

theorem witness_StandaloneEdgeStartsTheDebounce :
    ¬ Faulted maxReset ∧ Invariant maxReset ∧ (1#1).toNat < maxReset.cfg.nSkey :=
  ⟨by decide, max_invariant, by decide⟩

theorem witness_StandaloneTickReportsOrRests :
    ¬ Faulted (withKey true false atReset) ∧ Invariant (withKey true false atReset) ∧
    (0#1).toNat < atReset.cfg.nSkey :=
  ⟨by decide, key_invariant, by decide⟩

theorem witness_StandaloneReportsAlternate :
    ∃ t l k', ¬ Faulted t ∧ runOps [.stick 0 false] (withKey true false atReset) = some (t, l) ∧
      (withKey true false atReset).cfg.skeys[(0#1).toNat]? = some ⟨7, 0x70#8, false⟩ ∧
      (withKey true false atReset).skeys[(0#1).toNat]? = some ⟨true, false⟩ ∧ t.skeys[(0#1).toNat]? = some k' :=
  ⟨_, _, _, by decide, rfl, rfl, rfl, rfl⟩

theorem witness_PollTickIgnored :
    ¬ Faulted atReset ∧ ¬ Faulted (withPeer polledReset) ∧
    (15#5).toNat < 2 ^ cfgA.numRows ∧ atReset.cfg.polled = false ∧
    (withPeer polledReset).arb.owner = .externalPeer := by decide

/-- A poll that counts and a poll that reports; the first column, and the last row. -/
theorem witness_PollTickPollsOneColumn :
    ¬ Faulted polledReset ∧ ¬ Faulted polledOne ∧
    (Invariant polledReset ∧ polledReset.cfg.polled = true ∧ polledReset.arb.owner = .scanner) ∧
    (Invariant polledOne ∧ polledOne.cfg.polled = true ∧ polledOne.arb.owner = .scanner) ∧
    (15#5).toNat < 2 ^ polledReset.cfg.numRows ∧ (cellAt polledReset.poll 3 0).isSome = true ∧
    2 ≠ polledReset.poll.col.toNat :=
  ⟨by decide, by decide, ⟨polled_invariant, rfl, rfl⟩, ⟨polled_one_invariant, rfl, rfl⟩,
    by decide, by decide, by decide⟩

theorem witness_PolledModeHasNoPhases :
    ¬ Faulted polledReset ∧ polledReset.cfg.polled = true ∧ (3#3).toNat < polledReset.cfg.numRows ∧
    ∃ t, exec .req polledReset = .next t :=
  ⟨by decide, rfl, by decide, _, rfl⟩

/-- A next state of an operation of each group, for the statements over every operation. -/
theorem witness_ConfigurationIsConstant :
    ¬ Faulted atReset ∧ ¬ Faulted polledOne ∧
    (∃ t, exec (.edge 3 .asserted) atReset = .next t) ∧ (∃ t, exec .wtick atReset = .next t) ∧
    (∃ t, exec (.supp 31) atReset = .next t) ∧ ∃ t, exec (.ptick 0b01111) polledOne = .next t :=
  ⟨by decide, by decide, ⟨_, rfl⟩, ⟨_, rfl⟩, ⟨_, rfl⟩, _, rfl⟩

theorem witness_EachGroupHasItsWriters :
    ¬ Faulted (ident 0) ∧ ¬ Faulted maxReset ∧ ¬ Faulted (withKey true false atReset) ∧
    (∃ t, exec (.step .asserted) (ident 0) = .next t) ∧
    (∃ t, exec (.sedge 1 true) maxReset = .next t) ∧ 0 ≠ (1#1).toNat ∧
    ∃ t, exec (.stick 0 false) (withKey true false atReset) = .next t :=
  ⟨by decide, by decide, by decide, ⟨_, rfl⟩, ⟨_, rfl⟩, by decide, _, rfl⟩

theorem witness_ArbitrationHasItsWriters :
    ¬ Faulted atReset ∧ (∃ t, exec .req atReset = .next t ∧ t.arb.owner ≠ atReset.arb.owner) ∧
    (waiting [.rst true] checking).inputs = [.rst true] ∧
    ∃ t, step (waiting [.rst true] checking) = .next t :=
  ⟨by decide, ⟨_, rfl, by decide⟩, rfl, _, rfl⟩

theorem witness_OnlyQueriesReturnAResult :
    ¬ Faulted atReset ∧ (∃ t, exec .rdrc atReset = .next t) ∧ ∃ t, exec .nop atReset = .next t :=
  ⟨by decide, ⟨_, rfl⟩, _, rfl⟩

theorem witness_AtMostOneEventUnlessPolled :
    ¬ Faulted (withPeer atReset) ∧ ¬ Faulted polledOne ∧
    (∃ t, exec (.rel 0b01000 .asserted) (withPeer atReset) = .next t) ∧
    ∃ t, exec (.ptick 0b01111) polledOne = .next t :=
  ⟨by decide, by decide, ⟨_, rfl⟩, _, rfl⟩

theorem witness_PhaseMovesAsTheTableSays :
    ¬ Faulted (pending 2) ∧ ¬ Faulted (maxPending 65534) ∧ ¬ Faulted (withPeer atReset) ∧
    (Invariant (pending 2) ∧ (pending 2).cfg.polled = false ∧ Instr.wf cfgA (.step .released) = true) ∧
    (Invariant (maxPending 65534) ∧ (maxPending 65534).cfg.polled = false) ∧
    Invariant (withPeer atReset) ∧ (withPeer atReset).cfg.polled = false ∧
      Instr.wf cfgA (.rel 0b01000 .asserted) = true :=
  ⟨by decide, by decide, by decide, ⟨pending_invariant, rfl, rfl⟩, ⟨max_pending_invariant, rfl⟩,
    peer_invariant, rfl, by decide⟩

/-- What an operation leaves of the latch. -/
def latchAfter (i : Instr) (s : State) : Option LatchState := seen (fun t => t.latch.state) (exec i s)

/-- Every transition into a capture or a read. -/
theorem witness_LatchMovesOnlyByItsCauses :
    ¬ Faulted atReset ∧ ¬ Faulted polledOne ∧ ¬ Faulted (latched 2 1 atReset) ∧
    (Invariant atReset ∧ latchAfter (.edge 3 .asserted) atReset = some .capturedPending) ∧
    (Invariant polledOne ∧ latchAfter (.ptick 0b01000) polledOne = some .capturedPending) ∧
    Invariant (latched 2 1 atReset) ∧ latchAfter .rdkey (latched 2 1 atReset) = some .consumed :=
  ⟨by decide, by decide, by decide, ⟨reset_invariant, by decide⟩, ⟨polled_one_invariant, by decide⟩,
    latched_invariant, by decide⟩

/-- Every way the window closes: the last tick, an edge and a poll that fail the only column, a step that fails
column 0, a key change on a released sample, and a poll tick whose first report is a release. The last two are
states that no run reaches (42_power_on_latch.md R169). -/
theorem witness_LatchMovesOnlyByItsCauses_closing :
    (¬ Faulted (State.resetOf (cfgW 1)) ∧ ¬ Faulted (State.resetOf cfgC1) ∧
      ¬ Faulted (withPeer (State.resetOf cfgC1)) ∧ ¬ Faulted (ident 0) ∧
      ¬ Faulted (holding .checkForKeyChange 0 2 0x13#8 3#16 atReset) ∧ ¬ Faulted polledHeld) ∧
    (Invariant (State.resetOf (cfgW 1)) ∧ latchAfter .wtick (State.resetOf (cfgW 1)) = some .none) ∧
    (Invariant (State.resetOf cfgC1) ∧
      latchAfter (.edge 1 ⟨true, true, false⟩) (State.resetOf cfgC1) = some .none) ∧
    (Invariant (withPeer (State.resetOf cfgC1)) ∧
      latchAfter (.rel 0b00010 .released) (withPeer (State.resetOf cfgC1)) = some .none) ∧
    (Invariant (ident 0) ∧ latchAfter (.step .released) (ident 0) = some .none) ∧
    (Invariant (holding .checkForKeyChange 0 2 0x13#8 3#16 atReset) ∧
      latchAfter (.step .released) (holding .checkForKeyChange 0 2 0x13#8 3#16 atReset) = some .none) ∧
    Invariant polledHeld ∧ latchAfter (.ptick 0) polledHeld = some .none :=
  ⟨by decide, ⟨w1_invariant, by decide⟩, ⟨c1_invariant, by decide⟩, ⟨peer_c1_invariant, by decide⟩,
    ⟨ident_zero_invariant, by decide⟩, ⟨checking_armed_invariant, by decide⟩, polled_held_invariant,
    by decide⟩

/-- What closes no window: an unarmed or failing step that goes on, a masked edge, a poll of no row and a misused
release. -/
theorem test_open_windows_stay_open :
    latchAfter (.step .released) atReset = some .armed ∧ latchAfter (.step .released) (ident 2) = some .armed ∧
    latchAfter (.edge 1 .released) (withPeer (State.resetOf cfgC1)) = some .armed ∧
    latchAfter (.rel 0 .released) (withPeer (State.resetOf cfgC1)) = some .armed ∧
    latchAfter (.rel 0b00010 .released) (State.resetOf cfgC1) = some .armed := by decide

theorem witness_PeerExcludesTheScanner :
    ¬ Faulted (withPeer (ident 1)) ∧ (withPeer (ident 1)).arb.owner = .externalPeer ∧
    Instr.wf cfgA (.edge 3 .asserted) = true ∧
    isSampling (.edge 3 .asserted) = true ∧ isQuery (.alt 31) = true ∧
    ∃ t, exec (.sedge 0 true) (withPeer (ident 1)) = .next t :=
  ⟨by decide, rfl, by decide, rfl, rfl, _, rfl⟩

theorem witness_NothingIsScannedUntilRelease :
    (withPeer (ident 1)).arb.owner = .externalPeer ∧
    List.all [Instr.step .asserted] (fun i => !isRel i) = true ∧
    ∃ t l, ¬ Faulted t ∧ runOps [.step .asserted] (withPeer (ident 1)) = some (t, l) :=
  ⟨rfl, rfl, _, _, by decide, rfl⟩

theorem witness_AlternationNeverFaults :
    ¬ Faulted atReset ∧ ¬ Faulted (withPeer atReset) ∧
    properUse atReset.arb.owner [.req] = some .externalPeer ∧ (∃ t l, runOps [.req] atReset = some (t, l)) ∧
    properUse .externalPeer [.rel 0 .released] = some .scanner ∧ properUse .scanner [.rel 0 .released] = none :=
  ⟨by decide, by decide, rfl, ⟨_, _, rfl⟩, rfl, rfl⟩

/-- An ignored tick, a window tick and a standalone edge in the handoff. -/
theorem witness_HandoffLeavesTheScanUnchanged :
    ¬ Faulted (ident 1) ∧ ¬ Faulted polledReset ∧
    (ident 1).arb.owner = .scanner ∧ (ident 1).scan.phase ≠ .idle ∧ polledReset.arb.owner = .scanner ∧
    polledReset.cfg.polled = true ∧ (15#5).toNat < 2 ^ (ident 1).cfg.numRows ∧
    List.all [Instr.step .asserted, .wtick, .sedge 0 true, .rdkey]
      (fun i => !isArbiter i && i.wf (ident 1).cfg) = true ∧
    [Instr.step .asserted] ≠ [] ∧
    ∀ p, runOps ([Instr.step .asserted, .wtick, .sedge 0 true, .rdkey].filter (fun i => !isSampling i) ++
      [.step .asserted]) (ident 1) = some p → ¬ Faulted p.1 :=
  ⟨by decide, by decide, rfl, by decide, rfl, rfl, by decide, by decide, by decide, by
    intro p h
    cases h
    decide⟩

theorem witness_PressAndReleaseAlternate :
    Invariant (ident 0) ∧ (ident 0).cfg.polled = false ∧ (ident 0).rst = false ∧
    ∃ t l, ¬ Faulted t ∧ runOps [.step .asserted] (ident 0) = some (t, l) :=
  ⟨ident_zero_invariant, rfl, rfl, _, _, by decide, rfl⟩

/-- The key in the last row and the last column tried. -/
theorem witness_AHeldKeyIsFound :
    ¬ Faulted atReset ∧ Invariant atReset ∧ ArmedIn .idle atReset ∧ atReset.rst = false ∧
    (3#3).toNat < atReset.cfg.numRows ∧
    [Samples.released, Samples.released].length + 1 + 0 = atReset.cfg.numCols ∧
    ∀ sm ∈ [Samples.released, Samples.released], sm ≠ ⟨true, true, true⟩ :=
  ⟨by decide, reset_invariant, ⟨⟨rfl, rfl⟩, rfl⟩, rfl, by decide, by decide, by decide⟩

/-- One step short of the threshold. -/
theorem witness_AShortReleaseReportsNothing :
    ¬ Faulted (pending 0) ∧ ArmedIn .releasePending (pending 0) ∧
    (∀ sm ∈ [Samples.released, .released], sm.s0 = false) ∧
    (pending 0).scan.releaseStableCount.toNat + [Samples.released, .released].length <
      (pending 0).cfg.debounceTicks.toNat :=
  ⟨by decide, ⟨⟨rfl, rfl⟩, rfl⟩, by decide, by decide⟩

theorem witness_AReleaseIsReportedAfterTheDebounce :
    ¬ Faulted (maxPending 65534) ∧ Invariant (maxPending 65534) ∧ ArmedIn .releasePending (maxPending 65534) ∧
    (∀ sm ∈ [Samples.released, .released], sm.s0 = false) ∧
    (maxPending 65534).scan.releaseStableCount.toNat + [Samples.released, .released].length =
      (maxPending 65534).cfg.debounceTicks.toNat + 1 :=
  ⟨by decide, max_pending_invariant, ⟨⟨rfl, rfl⟩, rfl⟩, by decide, by decide⟩

theorem witness_AStuckKeyStaysPressed :
    ¬ Faulted (pending 2) ∧ ArmedIn .releasePending (pending 2) ∧ ∀ sm ∈ [Samples.asserted], sm.s0 = true :=
  ⟨by decide, ⟨⟨rfl, rfl⟩, rfl⟩, by decide⟩

theorem witness_ASpuriousScanEndsInIdle :
    ¬ Faulted (ident 0) ∧ Invariant (ident 0) ∧ ArmedIn .identifyButton (ident 0) ∧
    (∀ sm ∈ [(⟨true, true, false⟩ : Samples)], sm ≠ ⟨true, true, true⟩) ∧
    [(⟨true, true, false⟩ : Samples)].length = (ident 0).scan.currentColumn.toNat + 1 :=
  ⟨by decide, ident_zero_invariant, ⟨⟨rfl, rfl⟩, rfl⟩, by decide, by decide⟩

end Sys2Proof.Tests
end

section
/-! PROOF LAYER. What an operation leaves alone, said once for all operations, and the effect of the operations
whose frame alone does not say it. -/

namespace Sys2Proof.Machine

open Sys2Proof.Claims

/-- The components of the state an operation may write (10_state.md R20): the others are as they were. -/
def OpFrame (s t : State) : Instr → Prop
  | .nop | .kstate _ | .supp _ | .alt _ => t = { s with out := t.out }
  | .edge _ _ | .step _ => t = { s with scan := t.scan, latch := t.latch, out := t.out }
  | .wtick | .rdkey | .rdrc => t = { s with latch := t.latch, out := t.out }
  | .req => t = { s with arb := t.arb, out := t.out }
  | .rel _ _ => t = { s with scan := t.scan, arb := t.arb, latch := t.latch, out := t.out }
  | .sedge _ _ | .stick _ _ => t = { s with skeys := t.skeys, out := t.out }
  | .ptick _ => t = { s with poll := t.poll, latch := t.latch, out := t.out }

theorem exec_opFrame {i : Instr} {s t : State} (h : exec i s = .next t) : OpFrame s t i := by
  cases i with
  | nop | kstate | supp | alt => cases h; rfl
  | edge => rw [execEdge_frame h]; rfl
  | step => rw [execStep_frame h]; rfl
  | wtick => rw [execWtick_frame h]; rfl
  | req => rw [← Host.Outcome.next.inj ((execReq_eq s).symm.trans h)]; rfl
  | rel => rw [execRel_frame h]; rfl
  | rdkey => rw [(execRdkey_frame h).1]; rfl
  | rdrc => rw [(execRdrc_frame h).1]; rfl
  | sedge n lvl => rw [(execSedge_frame (lvl := lvl) h).1]; rfl
  | stick => rw [(execStick_frame h).1]; rfl
  | ptick => rw [execPtick_frame h]; rfl

/-! What every operation leaves alone -/

theorem exec_cfg {i : Instr} {s t : State} (h : exec i s = .next t) : t.cfg = s.cfg := by
  cases i <;> rw [show t = _ from exec_opFrame h]

theorem exec_rst {i : Instr} {s t : State} (h : exec i s = .next t) : t.rst = s.rst := by
  cases i <;> rw [show t = _ from exec_opFrame h]

theorem exec_inputs {i : Instr} {s t : State} (h : exec i s = .next t) : t.inputs = s.inputs := by
  cases i <;> rw [show t = _ from exec_opFrame h]

/-! What all operations but the writers of a group leave alone -/

theorem exec_arb {i : Instr} {s t : State} (h : exec i s = .next t) (hreq : i ≠ .req)
    (hrel : ∀ rows sm, i ≠ .rel rows sm) : t.arb = s.arb := by
  cases i with
  | req => exact absurd rfl hreq
  | rel rows sm => exact absurd rfl (hrel rows sm)
  | _ => rw [show t = _ from exec_opFrame h]

theorem exec_scan {i : Instr} {s t : State} (h : exec i s = .next t) (hedge : ∀ r sm, i ≠ .edge r sm)
    (hstep : ∀ sm, i ≠ .step sm) (hrel : ∀ rows sm, i ≠ .rel rows sm) : t.scan = s.scan := by
  cases i with
  | edge r sm => exact absurd rfl (hedge r sm)
  | step sm => exact absurd rfl (hstep sm)
  | rel rows sm => exact absurd rfl (hrel rows sm)
  | _ => rw [show t = _ from exec_opFrame h]

theorem exec_skeys {i : Instr} {s t : State} (h : exec i s = .next t) (hedge : ∀ n lvl, i ≠ .sedge n lvl)
    (htick : ∀ n lvl, i ≠ .stick n lvl) : t.skeys = s.skeys := by
  cases i with
  | sedge n lvl => exact absurd rfl (hedge n lvl)
  | stick n lvl => exact absurd rfl (htick n lvl)
  | _ => rw [show t = _ from exec_opFrame h]

theorem exec_poll {i : Instr} {s t : State} (h : exec i s = .next t) (hptick : ∀ rows, i ≠ .ptick rows) :
    t.poll = s.poll := by
  cases i with
  | ptick rows => exact absurd rfl (hptick rows)
  | _ => rw [show t = _ from exec_opFrame h]

/-- SEDGE and STICK write the named standalone key and the outputs only. -/
theorem exec_standalone {i : Instr} {n : BitVec 1} {lvl : Bool} {s t : State} (h : exec i s = .next t)
    (hi : i = .sedge n lvl ∨ i = .stick n lvl) :
    t = { s with skeys := t.skeys, out := t.out } ∧ ∀ m, m ≠ n.toNat → t.skeys[m]? = s.skeys[m]? := by
  rcases hi with rfl | rfl
  · exact ⟨exec_opFrame h, (execSedge_frame (lvl := lvl) h).2⟩
  · exact ⟨exec_opFrame h, (execStick_frame h).2⟩

/-! The arbitration token -/

/-- REQ hands the pins to the peer, or under the peer sets the fault (R150, R153). -/
theorem exec_req_arb {s t : State} (h : exec .req s = .next t) :
    t.arb = if s.arb.owner = .scanner then { s.arb with owner := .externalPeer }
      else { s.arb with arbFault := true } := by
  rw [← Host.Outcome.next.inj ((execReq_eq s).symm.trans h)]

/-- REL gives the pins back, or under the scanner sets the fault (R151, R153). -/
theorem exec_rel_arb {rows : BitVec 5} {sm : Samples} {s t : State} (h : exec (.rel rows sm) s = .next t) :
    t.arb = if s.arb.owner = .externalPeer then { s.arb with owner := .scanner }
      else { s.arb with arbFault := true } := by
  rw [execRel_frame h]

/-- Only REQ and REL move the owner, each to its own side. -/
theorem exec_owner_moved {i : Instr} {s t : State} (h : exec i s = .next t)
    (hmoved : t.arb.owner ≠ s.arb.owner) :
    (i = .req ∧ t.arb.owner = .externalPeer) ∨ (∃ rows sm, i = .rel rows sm) ∧ t.arb.owner = .scanner := by
  cases i with
  | req =>
    rw [exec_req_arb h] at hmoved ⊢
    cases ho : s.arb.owner <;> simp_all
  | rel rows sm =>
    rw [exec_rel_arb h] at hmoved ⊢
    cases ho : s.arb.owner <;> simp_all
  | _ => exact absurd (congrArg _ (exec_arb h (by simp) (by simp))) hmoved

/-- The fault is set by the two misuses and cleared by no operation (10_state.md R27). -/
theorem exec_arbFault_iff {i : Instr} {s t : State} (h : exec i s = .next t) :
    t.arb.arbFault = true ↔ s.arb.arbFault = true ∨ (i = .req ∧ s.arb.owner = .externalPeer) ∨
      (∃ rows sm, i = .rel rows sm) ∧ s.arb.owner = .scanner := by
  cases i with
  | req =>
    rw [exec_req_arb h]
    cases ho : s.arb.owner <;> simp
  | rel rows sm =>
    rw [exec_rel_arb h]
    cases ho : s.arb.owner <;> simp
  | _ => rw [exec_arb h (by simp) (by simp)]; simp

/-- A step that raises `rst` holds the block in reset. -/
theorem step_rst_true {s : State} {rest : List Input} (h : s.inputs = .rst true :: rest) :
    step s = .next { s with inputs := rest }.held := by
  simp [step, fetch, h, accept, driveRst]

end Sys2Proof.Machine
end

section
/-! Certificates of the statements about the groups of the state, their writers and the flags. -/

namespace Sys2Proof.Proofs

open Sys2Proof.Machine Sys2Proof.Claims

/-- Settles O44: each operation's frame leaves the three components alone. -/
theorem configurationIsConstant : Obligations.ConfigurationIsConstant :=
  fun _ _ _ _ h => ⟨exec_cfg h, exec_rst h, exec_inputs h⟩

/-- Settles O45, group by group from the frames of the operations. -/
theorem eachGroupHasItsWriters : Obligations.EachGroupHasItsWriters := by
  intro i s t _ h
  refine ⟨exec_arb h, exec_scan h, exec_skeys h, fun _ _ => exec_standalone h, exec_poll h, ?_⟩
  rintro (rfl | rfl | ⟨k, rfl⟩ | ⟨j, rfl⟩ | ⟨j, rfl⟩) <;> rw [show t = _ from exec_opFrame h]

/-- Settles O46: what REQ and REL do to the token, and the frame of every other operation. -/
theorem arbitrationHasItsWriters : Obligations.ArbitrationHasItsWriters := by
  refine ⟨fun i s t h => ⟨fun _ => exec_owner_moved h, exec_arbFault_iff h⟩, fun s t rest hrst h => ?_⟩
  rw [step_rst_true hrst] at h
  cases h
  rfl

/-- Settles O16 from the definitions of the flags. -/
theorem enablesFollowTheState : Obligations.EnablesFollowTheState := by
  intro s _
  refine ⟨?_, ?_, fun hoff sm => ?_, fun n k hk => ?_⟩
  · simp [irqEn, and_assoc]
  · simp [timerArmed, and_assoc]
  · exact if_neg (by simp [hoff])
  · simp [skIrqEn, skTimerArmed, hk]

/-- Settles O17: `ColPattern` by variant and phase, the pin level by owner. -/
theorem columnsFollowTheState : Obligations.ColumnsFollowTheState := by
  intro s c _
  refine ⟨?_, fun hp => ?_, fun hp hph => ?_, fun hp hph => ?_, fun ho => ?_, fun ho => ?_⟩
  · simp [colDriveEn]
  · simp [colPattern, hp]
  · rcases hph with hph | hph <;> simp [colPattern, hp, hph]
  · rcases hph with hph | hph | hph <;> simp [colPattern, hp, hph]
  · simp [colPinLevel, colDriveEn, ho]
  · have hdrive : colDriveEn s = true := by simp [colDriveEn, ho]
    rw [colPinLevel, if_pos hdrive]
    cases colPattern s c <;> cases s.cfg.colActiveLevel <;> rfl

/-- Settles O10: the reset tuple is the reset table of R50; the flags follow from it. -/
theorem resetLeavesTheStatedValues : Obligations.ResetLeavesTheStatedValues := by
  intro c
  refine ⟨rfl, rfl, ?_, fun n kc hkc => ?_, rfl, fun r hr k hk => ?_, ?_, ?_, rfl, fun k => ?_, fun n hn => ?_⟩
  · by_cases hw : c.powerOnWindowTicks = 0#16
    · simp [State.resetOf, PowerOnLatch.reset, hw]
    · have hpos : 0#16 < c.powerOnWindowTicks := (BitVec.pos_iff_ne_zero _).2 hw
      simp [State.resetOf, PowerOnLatch.reset, hw, hpos]
  · simp [State.resetOf, StandaloneKeyState.reset, hkc]
  · simp [State.resetOf, PolledState.reset, cellAt, hr, hk]
  · simp [irqEn, State.resetOf, ScanState.reset, ArbitrationToken.reset]
  · simp [timerArmed, State.resetOf, ScanState.reset]
  · simp [colPattern, State.resetOf, ScanState.reset, PolledState.reset]
  · have hlt : n < c.skeys.length := hn
    simp [skIrqEn, skTimerArmed, State.resetOf, StandaloneKeyState.reset, hlt]

end Sys2Proof.Proofs
end

section
/-! PROOF LAYER. The invariant in its four parts (ScanState, latch, cells, the rest), each part with what keeps
it. -/

namespace Sys2Proof.Machine

open Sys2Proof.Claims

/-- What the invariant says of ScanState under configuration `c` (10_state.md R48 items 1 to 4, R24, R36). -/
structure ScanInvariant (c : Config) (sc : ScanState) : Prop where
  restingPhase : sc.phase ≠ .releaseDetected
  activePhase : sc.activeValid = true ↔ sc.phase = .releasePending ∨ sc.phase = .checkForKeyChange
  activeFromKeymap : sc.activeValid = true →
    keymapAt c sc.currentRow.toNat sc.currentColumn.toNat = some sc.activeCode
  noActiveCode : sc.activeValid = false → sc.activeCode = 0#8
  cursorRow : sc.currentRow.toNat < c.numRows
  cursorColumn : sc.currentColumn.toNat < c.numCols
  countBound : sc.releaseStableCount ≤ c.debounceTicks
  countPending : sc.phase = .releasePending → sc.releaseStableCount < c.debounceTicks
  polledScan : c.polled = true → sc = .reset

/-- What the invariant says of the latch (R48 items 5, 6 and 8, R32). -/
structure LatchInvariant (c : Config) (l : PowerOnLatch) : Prop where
  rowValid : l.rowValid = true ↔ l.state = .capturedPending
  colValid : l.colValid = true ↔ l.state = .capturedPending
  cell : l.state = .capturedPending → l.row.toNat < c.numRows ∧ l.col.toNat < c.numCols
  empty : l.state ≠ .capturedPending → l.row = 0#8 ∧ l.col = 0#8
  windowOpen : l.state = .armed → 1#16 ≤ l.deadline

/-- What the invariant says of the polled variant's state (R36). -/
structure PollInvariant (c : Config) (p : PolledState) : Prop where
  cellRows : p.cells.length = c.numRows
  cellCols : ∀ l ∈ p.cells, l.length = c.numCols
  column : p.col.toNat < c.numCols
  cellCounts : ∀ l ∈ p.cells, ∀ x ∈ l, x.cnt < c.debounceTicks
  unpolledCells : c.polled = false → p = .reset c

/-- The invariant is its parts. -/
theorem invariant_iff {s : State} :
    Invariant s ↔ s.cfg.wf = true ∧ s.skeys.length = s.cfg.nSkey ∧ PollInvariant s.cfg s.poll ∧
      ScanInvariant s.cfg s.scan ∧ LatchInvariant s.cfg s.latch ∧ (s.rst = true → s = s.held) :=
  ⟨fun h =>
    ⟨h.configLegal, h.keyCount,
      ⟨h.cellRows, h.cellCols, h.pollColumn, h.cellCounts, h.unpolledCells⟩,
      ⟨h.restingPhase, h.activePhase, h.activeFromKeymap, h.noActiveCode, h.cursorRow, h.cursorColumn,
        h.countBound, h.countPending, h.polledScan⟩,
      ⟨h.latchRowValid, h.latchColValid, h.latchCell, h.latchEmpty, h.windowOpen⟩, h.heldInReset⟩,
   fun ⟨hwf, hkeys, hpoll, hscan, hlatch, hheld⟩ =>
    { hpoll, hscan with
      configLegal := hwf
      keyCount := hkeys
      pollColumn := hpoll.column
      latchRowValid := hlatch.rowValid
      latchColValid := hlatch.colValid
      latchCell := hlatch.cell
      latchEmpty := hlatch.empty
      windowOpen := hlatch.windowOpen
      heldInReset := hheld }⟩

theorem Invariant.poll {s : State} (h : Invariant s) : PollInvariant s.cfg s.poll :=
  have ⟨_, _, hpoll, _, _, _⟩ := invariant_iff.1 h
  hpoll

theorem Invariant.scan {s : State} (h : Invariant s) : ScanInvariant s.cfg s.scan :=
  have ⟨_, _, _, hscan, _, _⟩ := invariant_iff.1 h
  hscan

theorem Invariant.latch {s : State} (h : Invariant s) : LatchInvariant s.cfg s.latch :=
  have ⟨_, _, _, _, hlatch, _⟩ := invariant_iff.1 h
  hlatch

/-- The outputs are outside the invariant of a running block. -/
theorem Invariant.quiet {s : State} (h : Invariant s) (hrst : s.rst = false) : Invariant s.quiet :=
  have ⟨hwf, hkeys, hpoll, hscan, hlatch, _⟩ := invariant_iff.1 h
  invariant_iff.2 ⟨hwf, hkeys, hpoll, hscan, hlatch, fun hr => by simp [hrst] at hr⟩

/-- The inputs still to come are outside the invariant, in reset too. -/
theorem Invariant.withInputs {s : State} (h : Invariant s) (is : List Input) : Invariant { s with inputs := is } :=
  have ⟨hwf, hkeys, hpoll, hscan, hlatch, hheld⟩ := invariant_iff.1 h
  invariant_iff.2 ⟨hwf, hkeys, hpoll, hscan, hlatch, fun hr => by rw [hheld hr]; rfl⟩

/-! The bounds of a legal configuration, by name (00_scope.md R5, R6) -/

theorem numRows_pos {c : Config} (h : c.wf = true) : 0 < c.numRows :=
  have ⟨⟨hpos, _⟩, _⟩ := Config.wf_bounds h
  hpos

theorem numRows_le {c : Config} (h : c.wf = true) : c.numRows ≤ 5 :=
  have ⟨⟨_, hle⟩, _⟩ := Config.wf_bounds h
  hle

theorem numCols_pos {c : Config} (h : c.wf = true) : 0 < c.numCols :=
  have ⟨_, ⟨hpos, _⟩, _⟩ := Config.wf_bounds h
  hpos

theorem numCols_le {c : Config} (h : c.wf = true) : c.numCols ≤ 5 :=
  have ⟨_, ⟨_, hle⟩, _⟩ := Config.wf_bounds h
  hle

theorem debounceTicks_pos {c : Config} (h : c.wf = true) : 0#16 < c.debounceTicks :=
  have ⟨_, _, hne, _⟩ := Config.wf_bounds h
  (BitVec.pos_iff_ne_zero _).2 hne

/-- The last column of a legal configuration is a column of it. -/
theorem lastColumn_lt {c : Config} (h : c.wf = true) : (lastColumn c).toNat < c.numCols := by
  have hpos := numCols_pos h
  rw [lastColumn_toNat h]
  omega

/-- A row of a legal configuration is read back from its 8-bit register. -/
theorem toNat_ofNat_row {c : Config} (h : c.wf = true) {r : Nat} (hr : r < c.numRows) :
    (BitVec.ofNat 8 r).toNat = r := by
  have hle := numRows_le h
  rw [BitVec.toNat_ofNat]
  omega

/-- A column of a legal configuration is read back from its 8-bit register. -/
theorem toNat_ofNat_col {c : Config} (h : c.wf = true) {k : Nat} (hk : k < c.numCols) :
    (BitVec.ofNat 8 k).toNat = k := by
  have hle := numCols_le h
  rw [BitVec.toNat_ofNat]
  omega

/-! At reset -/

theorem scanInvariant_reset {c : Config} (h : c.wf = true) : ScanInvariant c .reset where
  restingPhase := by decide
  activePhase := by decide
  activeFromKeymap := by simp [ScanState.reset]
  noActiveCode := by simp [ScanState.reset]
  cursorRow := numRows_pos h
  cursorColumn := numCols_pos h
  countBound := BitVec.le_of_lt (debounceTicks_pos h)
  countPending := by simp [ScanState.reset]
  polledScan _ := rfl

theorem latchInvariant_reset (c : Config) : LatchInvariant c (.reset c) := by
  by_cases hw : c.powerOnWindowTicks = 0#16
  · constructor <;> simp [PowerOnLatch.reset, hw]
  · constructor <;> simp [PowerOnLatch.reset, hw]
    bv_omega

theorem pollInvariant_reset {c : Config} (h : c.wf = true) : PollInvariant c (.reset c) where
  cellRows := by simp [PolledState.reset]
  cellCols l hl := by simp [List.eq_of_mem_replicate hl]
  column := numCols_pos h
  cellCounts l hl x hx := by
    rw [List.eq_of_mem_replicate hl] at hx
    rw [List.eq_of_mem_replicate hx]
    exact debounceTicks_pos h
  unpolledCells _ := rfl

/-- Every field at its reset value, whatever the reset input and the inputs to come. -/
theorem invariant_at_reset {c : Config} (h : c.wf = true) (level : Bool) (is : List Input) :
    Invariant { State.resetOf c with rst := level, inputs := is } :=
  invariant_iff.2 ⟨h, List.length_map _, pollInvariant_reset h, scanInvariant_reset h, latchInvariant_reset c,
    fun hr => by cases (show level = true from hr); rfl⟩

/-! The latch -/

theorem latchInvariant_captured {c : Config} {l : PowerOnLatch} {row col : U8} (h : LatchInvariant c l)
    (hrow : row.toNat < c.numRows) (hcol : col.toNat < c.numCols) : LatchInvariant c (captured row col l) := by
  unfold captured
  split
  · constructor <;> simp [hrow, hcol]
  · exact h

theorem latchInvariant_windowCleared {c : Config} {l : PowerOnLatch} (h : LatchInvariant c l) :
    LatchInvariant c (windowCleared l) := by
  unfold windowCleared
  split
  · rename_i harmed
    have hnot : l.state ≠ .capturedPending := by simp [harmed]
    have hrow := h.rowValid
    have hcol := h.colValid
    constructor <;> simp_all [h.empty hnot]
  · exact h

theorem latchInvariant_consumed {c : Config} {l : PowerOnLatch} : LatchInvariant c (consumed l) := by
  constructor <;> simp [consumed]

theorem latchCapture_latch (row col : U8) (s : State) :
    (latchCapture row col s).latch = captured row col s.latch := by
  rw [latchCapture_eq]; rfl

theorem latchWindowClear_latch (s : State) : (latchWindowClear s).latch = windowCleared s.latch := by
  rw [latchWindowClear_eq]; rfl

/-- WTICK in one equation (42_power_on_latch.md R166): the last tick of an open window clears it. -/
theorem execWtick_eq (s : State) :
    execWtick s = .next { s with
      latch :=
        if s.latch.deadline ≤ 1#16 then windowCleared s.latch
        else if s.latch.state = .armed then { s.latch with deadline := s.latch.deadline - 1#16 }
        else s.latch
      out := {} } := by
  unfold execWtick windowCleared
  split <;> simp_all [State.quiet]
  split <;> rfl

/-- A read consumes what is captured and leaves every other latch (R167, R168). -/
theorem exec_read_latch {i : Instr} {s t : State} (h : exec i s = .next t) (hi : i = .rdkey ∨ i = .rdrc) :
    t.latch = if s.latch.state = .capturedPending then consumed s.latch else s.latch := by
  by_cases hc : s.latch.state = .capturedPending
  · rw [if_pos hc]
    rcases hi with rfl | rfl
    · simp only [exec, execRdkey, hc] at h
      split at h <;> cases h
      rfl
    · simp only [exec, execRdrc, hc] at h
      cases h
      rfl
  · rw [if_neg hc]
    rcases hi with rfl | rfl
    · cases (execRdkey_none hc).symm.trans h
      rfl
    · cases (execRdrc_none hc).symm.trans h
      rfl

end Sys2Proof.Machine
end

section
/-! PROOF LAYER. The scan step: the ways it can end, and what they keep and report. -/

namespace Sys2Proof.Machine

open Sys2Proof.Claims

/-- What a scan step with samples `sm` does to `s`, by the phase it finds (40_scan_state_machine.md R120 to
R126). -/
inductive ScanStepTo (sm : Samples) (s : State) : State → Prop
  | rests : s.scan.phase = .idle → ScanStepTo sm s s
  | confirms (k : KeyCode) :
    s.scan.phase = .identifyButton → sm = ⟨true, true, true⟩ →
    keymapAt s.cfg s.scan.currentRow.toNat s.scan.currentColumn.toNat = some k →
    ScanStepTo sm s { s with
      scan := { s.scan with
        activeValid := true, activeCode := k, releaseStableCount := 0#16, phase := .releasePending }
      latch := captured s.scan.currentRow s.scan.currentColumn s.latch
      out := { s.out with events := s.out.events ++ [⟨k, true⟩] } }
  | failsColumn :
    s.scan.phase = .identifyButton → sm ≠ ⟨true, true, true⟩ → s.scan.currentColumn ≠ 0#8 →
    ScanStepTo sm s { s with scan := { s.scan with currentColumn := s.scan.currentColumn - 1#8 } }
  | failsLastColumn :
    s.scan.phase = .identifyButton → sm ≠ ⟨true, true, true⟩ → s.scan.currentColumn = 0#8 →
    ScanStepTo sm s (releaseDetectedAction s)
  | staysPressed :
    s.scan.phase = .releasePending → sm.s0 = true →
    ScanStepTo sm s { s with scan := { s.scan with releaseStableCount := 0#16 } }
  | countsRelease :
    s.scan.phase = .releasePending → sm.s0 = false →
    s.scan.releaseStableCount + 1#16 < s.cfg.debounceTicks →
    ScanStepTo sm s { s with
      scan := { s.scan with releaseStableCount := s.scan.releaseStableCount + 1#16 } }
  | completesCount :
    s.scan.phase = .releasePending → sm.s0 = false →
    s.cfg.debounceTicks ≤ s.scan.releaseStableCount + 1#16 →
    ScanStepTo sm s { s with
      scan := { s.scan with
        releaseStableCount := s.scan.releaseStableCount + 1#16, phase := .checkForKeyChange } }
  | changesKey :
    s.scan.phase = .checkForKeyChange → sm.s0 = true → ScanStepTo sm s (keyChangeStep true s)
  | endsCycle :
    s.scan.phase = .checkForKeyChange → sm.s0 = false → ScanStepTo sm s (releaseDetectedAction s)
  | leavesReleaseDetected :
    s.scan.phase = .releaseDetected → ScanStepTo sm s (releaseDetectedAction s)

/-- Every scan step that completes is one of these. -/
theorem scanStep_cases {sm : Samples} {s t : State} (h : scanStep sm s = .next t) : ScanStepTo sm s t := by
  cases hp : s.scan.phase with
  | idle =>
    simp only [scanStep, hp] at h
    cases h
    exact .rests hp
  | identifyButton =>
    simp only [scanStep, hp] at h
    by_cases hsm : sm = ⟨true, true, true⟩
    · rw [columnStep, if_pos (allAsserted_iff.2 hsm)] at h
      obtain ⟨k, hk, rfl⟩ := confirmPress_eq_next.1 h
      exact .confirms k hp hsm hk
    · rw [columnStep_of_not_asserted (allAsserted_eq_false.2 hsm)] at h
      cases h
      split
      · exact .failsLastColumn hp hsm ‹_›
      · exact .failsColumn hp hsm ‹_›
  | releasePending =>
    simp only [scanStep, hp] at h
    cases h
    unfold releasePendingStep
    split
    · exact .staysPressed hp ‹_›
    · rename_i hs0
      have hs0 : sm.s0 = false := by simpa using hs0
      by_cases hd : s.cfg.debounceTicks ≤ s.scan.releaseStableCount + 1#16
      · simpa only [if_pos hd] using ScanStepTo.completesCount hp hs0 hd
      · simpa only [if_neg hd] using ScanStepTo.countsRelease hp hs0 (BitVec.not_le.1 hd)
  | checkForKeyChange =>
    simp only [scanStep, hp] at h
    cases h
    cases hs0 : sm.s0 with
    | true => exact .changesKey hp hs0
    | false => exact .endsCycle hp hs0
  | releaseDetected =>
    simp only [scanStep, hp] at h
    cases h
    exact .leavesReleaseDetected hp

/-! The end of a cycle -/

theorem releaseDetectedAction_scan (s : State) :
    (releaseDetectedAction s).scan = { s.scan with activeValid := false, activeCode := 0#8, phase := .idle } := by
  rw [releaseDetectedAction_eq]

theorem releaseDetectedAction_latch (s : State) :
    (releaseDetectedAction s).latch = windowCleared s.latch := by
  rw [releaseDetectedAction_eq]; rfl

/-- A scan with no key active and a cursor in range meets the invariant in every phase in which no key is
active. -/
theorem ScanInvariant.withoutKey {c : Config} {sc sc' : ScanState} (h : ScanInvariant c sc)
    (hpolled : c.polled = false) (hphase : sc'.phase = .idle ∨ sc'.phase = .identifyButton)
    (hvalid : sc'.activeValid = false) (hcode : sc'.activeCode = 0#8)
    (hrow : sc'.currentRow.toNat < c.numRows) (hcol : sc'.currentColumn.toNat < c.numCols)
    (hcount : sc'.releaseStableCount = sc.releaseStableCount) : ScanInvariant c sc' where
  restingPhase := by rcases hphase with hp | hp <;> simp [hp]
  activePhase := by rcases hphase with hp | hp <;> simp [hp, hvalid]
  activeFromKeymap := by simp [hvalid]
  noActiveCode _ := hcode
  cursorRow := hrow
  cursorColumn := hcol
  countBound := hcount ▸ h.countBound
  countPending := by rcases hphase with hp | hp <;> simp [hp]
  polledScan := by simp [hpolled]

theorem scanInvariant_releaseDetectedAction {s : State} (h : ScanInvariant s.cfg s.scan)
    (hpolled : s.cfg.polled = false) : ScanInvariant s.cfg (releaseDetectedAction s).scan := by
  rw [releaseDetectedAction_scan]
  exact h.withoutKey hpolled (.inl rfl) rfl rfl h.cursorRow h.cursorColumn rfl

/-- While a key is active in `ReleasePending` only the count and the move to `CheckForKeyChange` change. -/
theorem ScanInvariant.counted {c : Config} {sc : ScanState} (h : ScanInvariant c sc)
    (hpolled : c.polled = false) (hp : sc.phase = .releasePending) {n : U16} {p : Phase}
    (hnext : p = .releasePending ∧ n < c.debounceTicks ∨ p = .checkForKeyChange ∧ n ≤ c.debounceTicks) :
    ScanInvariant c { sc with releaseStableCount := n, phase := p } where
  restingPhase := by rcases hnext with ⟨rfl, -⟩ | ⟨rfl, -⟩ <;> simp
  activePhase := by
    have hvalid := h.activePhase.2 (.inl hp)
    rcases hnext with ⟨rfl, -⟩ | ⟨rfl, -⟩ <;> simp [hvalid]
  activeFromKeymap := h.activeFromKeymap
  noActiveCode := h.noActiveCode
  cursorRow := h.cursorRow
  cursorColumn := h.cursorColumn
  countBound := by
    rcases hnext with ⟨-, hn⟩ | ⟨-, hn⟩
    · exact BitVec.le_of_lt hn
    · exact hn
  countPending := by rcases hnext with ⟨rfl, hn⟩ | ⟨rfl, -⟩ <;> simp [*]
  polledScan := by simp [hpolled]

/-- A scan step keeps the invariant's part about ScanState. -/
theorem scanStep_keeps_scan {sm : Samples} {s t : State} (h : scanStep sm s = .next t)
    (hwf : s.cfg.wf = true) (hpolled : s.cfg.polled = false) (hi : ScanInvariant s.cfg s.scan) :
    ScanInvariant s.cfg t.scan := by
  cases scanStep_cases h with
  | rests => exact hi
  | confirms k _ _ hk =>
    exact {
      restingPhase := by simp
      activePhase := by simp
      activeFromKeymap := fun _ => hk
      noActiveCode := by simp
      cursorRow := hi.cursorRow
      cursorColumn := hi.cursorColumn
      countBound := BitVec.le_of_lt (debounceTicks_pos hwf)
      countPending := fun _ => debounceTicks_pos hwf
      polledScan := by simp [hpolled] }
  | failsColumn hp _ hcol =>
    have hvalid : s.scan.activeValid = false := by simpa [hp] using hi.activePhase
    have hcursor := hi.cursorColumn
    exact hi.withoutKey hpolled (.inr hp) hvalid (hi.noActiveCode hvalid) hi.cursorRow (by bv_omega) rfl
  | failsLastColumn | endsCycle | leavesReleaseDetected => exact scanInvariant_releaseDetectedAction hi hpolled
  | staysPressed hp =>
    simpa [hp] using hi.counted hpolled hp (.inl ⟨rfl, debounceTicks_pos hwf⟩)
  | countsRelease hp _ hlt =>
    simpa [hp] using hi.counted hpolled hp (.inl ⟨rfl, hlt⟩)
  | completesCount hp =>
    have hpending := hi.countPending hp
    exact hi.counted hpolled hp (.inr ⟨rfl, by bv_omega⟩)
  | changesKey =>
    rw [keyChangeStep_eq]
    exact hi.withoutKey hpolled (.inr rfl) rfl rfl hi.cursorRow (lastColumn_lt hwf) rfl

/-- A scan step keeps the invariant's part about the latch. -/
theorem scanStep_keeps_latch {sm : Samples} {s t : State} (h : scanStep sm s = .next t)
    (hi : ScanInvariant s.cfg s.scan) (hl : LatchInvariant s.cfg s.latch) : LatchInvariant s.cfg t.latch := by
  cases scanStep_cases h with
  | confirms => exact latchInvariant_captured hl hi.cursorRow hi.cursorColumn
  | failsLastColumn | endsCycle | leavesReleaseDetected =>
    rw [releaseDetectedAction_latch]
    exact latchInvariant_windowCleared hl
  | changesKey => rw [keyChangeStep_eq]; exact hl
  | _ => exact hl

/-! The matrix events of a scan step -/

/-- Reporting the release of the active key, if there is one, leaves none. -/
theorem alternate_release {s t : State} (hvalid : t.scan.activeValid = false)
    (hevents : t.out.events = if s.scan.activeValid then [⟨s.scan.activeCode, false⟩] else []) :
    alternate (activeKey s) t.out.events = some (activeKey t) := by
  rw [hevents]
  cases h : s.scan.activeValid <;> simp [activeKey, h, hvalid, alternate]

/-- From a state that has reported nothing yet, a scan step's events go from the key active before to the key
active after. -/
theorem scanStep_alternates {sm : Samples} {s t : State} (h : scanStep sm s = .next t)
    (hi : ScanInvariant s.cfg s.scan) (hquiet : s.out.events = []) :
    alternate (activeKey s) t.out.events = some (activeKey t) := by
  cases scanStep_cases h with
  | confirms k hp =>
    have hvalid : s.scan.activeValid = false := by simpa [hp] using hi.activePhase
    simp [hquiet, activeKey, hvalid, alternate]
  | failsLastColumn | endsCycle | leavesReleaseDetected =>
    exact alternate_release (by rw [releaseDetectedAction_eq]) (by simp [releaseDetectedAction_eq, hquiet])
  | changesKey => exact alternate_release (by simp [keyChangeStep_eq]) (by simp [keyChangeStep_eq, hquiet])
  | _ => simp [hquiet, alternate, activeKey]

end Sys2Proof.Machine
end

section
/-! PROOF LAYER. The operations and the step keep the invariant, part by part. -/

namespace Sys2Proof.Machine

open Sys2Proof.Claims

/-! The cells -/

theorem forall_mem_modify {α : Type} {P : α → Prop} {l : List α} {f : α → α} (n : Nat) (h : ∀ a ∈ l, P a)
    (hf : ∀ a ∈ l, P (f a)) : ∀ a ∈ l.modify n f, P a := by
  intro a ha
  obtain ⟨m, hm⟩ := List.mem_iff_getElem?.1 ha
  rw [List.getElem?_modify] at hm
  obtain ⟨b, hb, rfl⟩ := Option.map_eq_some_iff.1 hm
  have hmem := List.mem_of_getElem? hb
  split
  · exact hf b hmem
  · exact h b hmem

/-- A cell written with a count below the threshold keeps the polled variant's invariant. -/
theorem setCell_keeps_poll {s : State} (hi : PollInvariant s.cfg s.poll) (hpolled : s.cfg.polled = true)
    (r c : Nat) {x : Cell} (hx : x.cnt < s.cfg.debounceTicks) : PollInvariant s.cfg (setCell r c x s).poll where
  cellRows := by simpa using hi.cellRows
  cellCols := forall_mem_modify r hi.cellCols fun l hl => by simpa using hi.cellCols l hl
  column := hi.column
  cellCounts := forall_mem_modify r hi.cellCounts fun l hl y hy =>
    (List.mem_or_eq_of_mem_set hy).elim (hi.cellCounts l hl y) fun h => h ▸ hx
  unpolledCells := by simp [hpolled]

theorem mem_of_cellAt {p : PolledState} {r c : Nat} {x : Cell} (h : cellAt p r c = some x) :
    ∃ l ∈ p.cells, x ∈ l := by
  obtain ⟨l, hl, hx⟩ := Option.bind_eq_some_iff.1 h
  exact ⟨l, List.mem_of_getElem? hl, List.mem_of_getElem? hx⟩

/-- One row of a poll keeps the invariant's parts about the cells and the latch. -/
theorem pollCell_keeps {a : Bool} {r c : Nat} {s t : State} (h : pollCell a r c s = .next t)
    (hwf : s.cfg.wf = true) (hpolled : s.cfg.polled = true) (hr : r < s.cfg.numRows) (hc : c < s.cfg.numCols)
    (hp : PollInvariant s.cfg s.poll) (hl : LatchInvariant s.cfg s.latch) :
    PollInvariant s.cfg t.poll ∧ LatchInvariant s.cfg t.latch := by
  have hzero := debounceTicks_pos hwf
  obtain ⟨x, -, ⟨-, rfl⟩ | ⟨-, -, k, -, rfl⟩ | ⟨-, hn, rfl⟩⟩ := pollCell_eq_next.1 h
  · exact ⟨setCell_keeps_poll hp hpolled r c hzero, hl⟩
  · refine ⟨setCell_keeps_poll hp hpolled r c hzero, ?_⟩
    cases a with
    | true =>
      simp only [if_true, latchCapture_latch]
      exact latchInvariant_captured hl (by rwa [toNat_ofNat_row hwf hr])
        (by rwa [toNat_ofNat_col hwf hc])
    | false =>
      simp only [Bool.false_eq_true, if_false, latchWindowClear_latch]
      exact latchInvariant_windowCleared hl
  · exact ⟨setCell_keeps_poll hp hpolled r c (BitVec.not_le.1 hn), hl⟩

/-- A poll of rows of the matrix keeps them too. -/
theorem pollRows_keeps {rows : BitVec 5} {c : Nat} {rs : List Nat} {s t : State}
    (h : pollRows rows c rs s = .next t) (hwf : s.cfg.wf = true) (hpolled : s.cfg.polled = true)
    (hrs : ∀ r ∈ rs, r < s.cfg.numRows) (hc : c < s.cfg.numCols)
    (hp : PollInvariant s.cfg s.poll) (hl : LatchInvariant s.cfg s.latch) :
    PollInvariant s.cfg t.poll ∧ LatchInvariant s.cfg t.latch := by
  induction rs generalizing s with
  | nil => cases h; exact ⟨hp, hl⟩
  | cons r rs ih =>
    obtain ⟨u, hu, ht⟩ := andThen_eq_next.1 h
    obtain ⟨hpu, hlu⟩ := pollCell_keeps hu hwf hpolled (hrs r (by simp)) hc hp hl
    have hcfg : u.cfg = s.cfg := by rw [pollCell_frame hu]
    rw [← hcfg] at hwf hpolled hrs hc hpu hlu ⊢
    exact ih ht hwf hpolled (fun q hq => hrs q (by simp [hq])) hc hpu hlu

/-- PTICK is a poll of every row of column `poll_col`, and the next column; or it is ignored (R201). -/
theorem execPtick_cases {rows : BitVec 5} {s t : State} (h : execPtick rows s = .next t) :
    (s.cfg.polled = true ∧ s.arb.owner = .scanner ∧
      ∃ u, pollRows rows s.poll.col.toNat (List.range s.cfg.numRows) s.quiet = .next u ∧
        t = advancePollColumn u) ∨
      (s.cfg.polled = false ∨ s.arb.owner = .externalPeer) ∧ t = s.quiet := by
  unfold execPtick at h
  split at h
  · split at h
    · rename_i hguard
      obtain ⟨hpolled, howner⟩ : s.cfg.polled = true ∧ s.arb.owner = .scanner := by simpa using hguard
      obtain ⟨u, hu, ht⟩ := andThen_eq_next.1 h
      cases ht
      exact .inl ⟨hpolled, howner, u, hu, rfl⟩
    · rename_i hguard
      cases h
      refine .inr ⟨?_, rfl⟩
      cases hp : s.cfg.polled with
      | false => exact .inl rfl
      | true => cases ho : s.arb.owner <;> simp_all
  · cases h

/-- PTICK keeps the invariant's parts about the cells and the latch. -/
theorem execPtick_keeps {rows : BitVec 5} {s t : State} (h : execPtick rows s = .next t) (hi : Invariant s) :
    PollInvariant s.cfg t.poll ∧ LatchInvariant s.cfg t.latch := by
  obtain ⟨hpolled, -, u, hu, rfl⟩ | ⟨-, rfl⟩ := execPtick_cases h
  · obtain ⟨hpu, hlu⟩ := pollRows_keeps hu hi.configLegal hpolled (fun r hr => List.mem_range.1 hr)
      hi.pollColumn hi.poll hi.latch
    have hcfg : u.cfg = s.cfg := by rw [pollRows_frame hu]; rfl
    have hnext : (u.poll.col.toNat + 1) % s.cfg.numCols < s.cfg.numCols :=
      Nat.mod_lt _ (numCols_pos hi.configLegal)
    exact ⟨{
      cellRows := hpu.cellRows
      cellCols := hpu.cellCols
      column := by rwa [advancePollColumn_poll_col, hcfg, toNat_ofNat_col hi.configLegal hnext]
      cellCounts := hpu.cellCounts
      unpolledCells := by simp [hpolled] }, hlu⟩
  · exact ⟨hi.poll, hi.latch⟩

/-! The operations that run a scan step -/

/-- `u` is where an operation that finds the block in `s` starts its scan step: as in `s` but for the cursor, the
phase and the pins' owner, with nothing reported. -/
structure ScanStart (s u : State) : Prop where
  cfg : u.cfg = s.cfg
  unpolled : s.cfg.polled = false
  scan : ScanInvariant s.cfg u.scan
  latch : u.latch = s.latch
  key : activeKey u = activeKey s
  quiet : u.out.events = []

/-- What EDGE, STEP and REL come to: a scan step, or ScanState and the latch as they were and no event. -/
def ScanOutcome (s t : State) : Prop :=
  (∃ sm u, ScanStart s u ∧ scanStep sm u = .next t) ∨
    t.scan = s.scan ∧ t.latch = s.latch ∧ t.out.events = []

/-- EdgeEntry from `Idle` on a row of the matrix starts a scan step. -/
theorem scanStart_edgeEntry {s : State} (hi : Invariant s) (hpolled : s.cfg.polled = false)
    (hp : s.scan.phase = .idle) {r : U8} (hr : r.toNat < s.cfg.numRows) (a : ArbitrationToken) (d : Bool) :
    ScanStart s (edgeEntry r { s with arb := a, out := { peerDone := d } }) where
  cfg := rfl
  unpolled := hpolled
  scan := by
    have hvalid : s.scan.activeValid = false := by simpa [hp] using hi.activePhase
    exact hi.scan.withoutKey hpolled (.inr rfl) hvalid (hi.noActiveCode hvalid) hr
      (lastColumn_lt hi.configLegal) rfl
  latch := rfl
  key := rfl
  quiet := rfl

theorem execEdge_outcome {r : BitVec 3} {sm : Samples} {s t : State} (h : execEdge r sm s = .next t)
    (hi : Invariant s) : ScanOutcome s t := by
  unfold execEdge at h
  split at h
  · rename_i hr
    split at h
    · rename_i hirq
      obtain ⟨⟨hpolled, hp⟩, -⟩ :
          (s.cfg.polled = false ∧ s.scan.phase = .idle) ∧ s.arb.owner = .scanner := by
        simpa [irqEn] using hirq
      have hrow : (r.setWidth 8).toNat < s.cfg.numRows := by
        rw [BitVec.toNat_setWidth_of_le (by decide)]
        exact rowInRange_iff.1 hr
      exact .inl ⟨sm, _, scanStart_edgeEntry hi hpolled hp hrow s.arb false, h⟩
    · cases h
      exact .inr ⟨rfl, rfl, rfl⟩
  · cases h

theorem execStep_outcome {sm : Samples} {s t : State} (h : execStep sm s = .next t) (hi : Invariant s) :
    ScanOutcome s t := by
  unfold execStep at h
  split at h
  · rename_i harmed
    obtain ⟨⟨hpolled, -⟩, -⟩ : (s.cfg.polled = false ∧ s.scan.phase ≠ .idle) ∧ s.arb.owner = .scanner := by
      simpa [timerArmed] using harmed
    exact .inl ⟨sm, s.quiet, ⟨rfl, hpolled, hi.scan, rfl, rfl, rfl⟩, h⟩
  · cases h
    exact .inr ⟨rfl, rfl, rfl⟩

/-- A set bit of a row vector in range names a row of the matrix. -/
theorem lowestRow_lt {c : Config} {rows : BitVec 5} {r : Nat} (hrows : rowsInRange c rows = true)
    (hr : lowestRow rows = some r) : r < c.numRows := by
  have hbit : rows.toNat.testBit r = true := (lowestRow_eq_some.1 hr).1
  exact (Nat.pow_lt_pow_iff_right (by decide)).1
    (Nat.lt_of_le_of_lt (Nat.ge_two_pow_of_testBit hbit) (rowsInRange_iff.1 hrows))

theorem execRel_outcome {rows : BitVec 5} {sm : Samples} {s t : State} (h : execRel rows sm s = .next t)
    (hi : Invariant s) : ScanOutcome s t := by
  unfold execRel at h
  split at h
  · rename_i hrows
    split at h
    · dsimp only at h
      split at h
      · rename_i hidle
        obtain ⟨hpolled, hp⟩ : s.cfg.polled = false ∧ s.scan.phase = .idle := by simpa using hidle
        unfold lostKeypressPoll at h
        split at h
        · cases h
          exact .inr ⟨rfl, rfl, rfl⟩
        · rename_i r hr
          have hlt := lowestRow_lt hrows hr
          have hrow : (BitVec.ofNat 8 r).toNat < s.cfg.numRows := by
            rwa [toNat_ofNat_row hi.configLegal hlt]
          exact .inl ⟨sm, _, scanStart_edgeEntry hi hpolled hp hrow _ true, h⟩
      · cases h
        exact .inr ⟨rfl, rfl, rfl⟩
    · cases h
      exact .inr ⟨rfl, rfl, rfl⟩
  · cases h

theorem ScanOutcome.keeps {s t : State} (h : ScanOutcome s t) (hi : Invariant s) :
    ScanInvariant s.cfg t.scan ∧ LatchInvariant s.cfg t.latch := by
  obtain ⟨sm, u, hstart, hstep⟩ | ⟨hscan, hlatch, -⟩ := h
  · have hcfg := hstart.cfg
    have hsu := hcfg ▸ hstart.scan
    exact ⟨hcfg ▸ scanStep_keeps_scan hstep (hcfg ▸ hi.configLegal) (hcfg ▸ hstart.unpolled) hsu,
      hcfg ▸ scanStep_keeps_latch hstep hsu (by rw [hcfg, hstart.latch]; exact hi.latch)⟩
  · rw [hscan, hlatch]
    exact ⟨hi.scan, hi.latch⟩

/-! Every operation, part by part -/

theorem exec_keeps_scan {i : Instr} {s t : State} (h : exec i s = .next t) (hi : Invariant s) :
    ScanInvariant s.cfg t.scan := by
  cases i with
  | edge => exact ((execEdge_outcome h hi).keeps hi).1
  | step => exact ((execStep_outcome h hi).keeps hi).1
  | rel => exact ((execRel_outcome h hi).keeps hi).1
  | _ => exact exec_scan h (by simp) (by simp) (by simp) ▸ hi.scan

theorem execWtick_keeps_latch {s t : State} (h : execWtick s = .next t) (hi : LatchInvariant s.cfg s.latch) :
    LatchInvariant s.cfg t.latch := by
  cases (execWtick_eq s).symm.trans h
  dsimp only
  split
  · exact latchInvariant_windowCleared hi
  · split
    · rename_i hd _
      exact ⟨hi.rowValid, hi.colValid, hi.cell, hi.empty, fun _ => by bv_omega⟩
    · exact hi

theorem exec_keeps_latch {i : Instr} {s t : State} (h : exec i s = .next t) (hi : Invariant s) :
    LatchInvariant s.cfg t.latch := by
  cases i with
  | edge => exact ((execEdge_outcome h hi).keeps hi).2
  | step => exact ((execStep_outcome h hi).keeps hi).2
  | rel => exact ((execRel_outcome h hi).keeps hi).2
  | wtick => exact execWtick_keeps_latch h hi.latch
  | rdkey | rdrc =>
    rw [exec_read_latch h (by simp)]
    split
    · exact latchInvariant_consumed
    · exact hi.latch
  | ptick => exact (execPtick_keeps h hi).2
  | nop | req | kstate | supp | alt | sedge | stick =>
    rw [show t = _ from exec_opFrame h]
    exact hi.latch

theorem exec_keeps_poll {i : Instr} {s t : State} (h : exec i s = .next t) (hi : Invariant s) :
    PollInvariant s.cfg t.poll := by
  cases i with
  | ptick => exact (execPtick_keeps h hi).1
  | _ => exact exec_poll h (by simp) ▸ hi.poll

/-- SEDGE sets the named standalone key or nothing (44_standalone_debouncer.md R190). -/
theorem execSedge_skeys {n : BitVec 1} {lvl : Bool} {s t : State} (h : execSedge n lvl s = .next t) :
    t.skeys = s.skeys ∨ ∃ k, t.skeys = s.skeys.set n.toNat k := by
  unfold execSedge at h
  split at h
  · split at h
    · cases h
    · split at h <;> cases h
      · exact .inr ⟨_, rfl⟩
      · exact .inl rfl
  · cases h

/-- STICK sets the named standalone key or nothing (R191). -/
theorem execStick_skeys {n : BitVec 1} {lvl : Bool} {s t : State} (h : execStick n lvl s = .next t) :
    t.skeys = s.skeys ∨ ∃ k, t.skeys = s.skeys.set n.toNat k := by
  unfold execStick at h
  split at h
  · split at h
    · split at h
      · cases h
        exact .inl rfl
      · split at h <;> cases h <;> exact .inr ⟨_, rfl⟩
    · cases h
  · cases h

/-- No operation adds or removes a standalone key. -/
theorem exec_skeys_length {i : Instr} {s t : State} (h : exec i s = .next t) :
    t.skeys.length = s.skeys.length := by
  cases i with
  | sedge n lvl => obtain hk | ⟨k, hk⟩ := execSedge_skeys (lvl := lvl) h <;> simp [hk]
  | stick => obtain hk | ⟨k, hk⟩ := execStick_skeys h <;> simp [hk]
  | _ => rw [exec_skeys h (by simp) (by simp)]

/-- Every operation out of reset keeps the invariant (10_state.md R48). -/
theorem exec_keeps_invariant {i : Instr} {s t : State} (h : exec i s = .next t) (hi : Invariant s)
    (hrst : s.rst = false) : Invariant t := by
  refine invariant_iff.2 ⟨?_, ?_, ?_, ?_, ?_, fun hr => ?_⟩
  · rw [exec_cfg h]; exact hi.configLegal
  · rw [exec_cfg h, exec_skeys_length h]; exact hi.keyCount
  · rw [exec_cfg h]; exact exec_keeps_poll h hi
  · rw [exec_cfg h]; exact exec_keeps_scan h hi
  · rw [exec_cfg h]; exact exec_keeps_latch h hi
  · rw [exec_rst h, hrst] at hr; cases hr

/-! The step -/

/-- What an input without an operation comes to: nothing out of reset, or the reset state under the configuration
held or a legal new one (70_reset_and_hazards.md R250, R253). -/
def Settles (s t : State) : Prop :=
  (s.rst = false ∧ t = s.quiet) ∨
    ∃ c level, (c = s.cfg ∨ c.wf = true) ∧ t = { State.resetOf c with rst := level, inputs := s.inputs }

theorem settles_held (s : State) : Settles s s.held := .inr ⟨s.cfg, true, .inl rfl, rfl⟩

theorem settles_settle (s : State) : Settles s s.settle := by
  cases hr : s.rst with
  | true => rw [State.settle_of_reset hr]; exact settles_held s
  | false => rw [State.settle_of_running hr]; exact .inl ⟨hr, rfl⟩

theorem settles_driveRst (level : Bool) (s : State) : Settles s (driveRst level s) := by
  cases level with
  | true => exact settles_held s
  | false =>
    cases hr : s.rst with
    | true => exact .inr ⟨s.cfg, false, .inl rfl, by simp [driveRst, hr]; rfl⟩
    | false => exact .inl ⟨hr, by simp [driveRst, hr]⟩

theorem settles_takeWord {w : OpWord} {s t : State} (h : takeWord w s = .settled t) : Settles s t := by
  obtain ⟨-, rfl⟩ := takeWord_eq_settled h
  exact settles_held s

theorem accept_eq_settled {s t : State} {a : Input} (h : accept s a = .settled t) : Settles s t := by
  cases a with
  | word => exact settles_takeWord h
  | strobe =>
    unfold accept at h
    dsimp only at h
    split at h
    · cases h
      exact settles_settle s
    · exact settles_takeWord h
  | rst level =>
    cases h
    exact settles_driveRst level s
  | configure c =>
    obtain ⟨-, hc, rfl⟩ | ⟨hr, -, rfl⟩ := reconfigure_eq_settled h
    · exact .inr ⟨c, true, .inr hc, rfl⟩
    · exact .inl ⟨hr, rfl⟩

/-- An operation is executed out of reset, in the state its input finds. -/
theorem accept_eq_operation {s t : State} {a : Input} {w : OpWord} (h : accept s a = .operation w t) :
    s.rst = false ∧ t = s := by
  cases a with
  | word =>
    obtain ⟨hr, -, rfl⟩ := takeWord_eq_operation h
    exact ⟨hr, rfl⟩
  | strobe =>
    unfold accept at h
    dsimp only at h
    split at h
    · cases h
    · obtain ⟨hr, -, rfl⟩ := takeWord_eq_operation h
      exact ⟨hr, rfl⟩
  | rst => cases h
  | configure c => exact absurd h (reconfigure_ne_operation c s w t)

/-- A step that completes takes an input, if one waits, and settles or executes one operation. -/
theorem step_cases {s t : State} (h : step s = .next t) :
    Settles { s with inputs := s.inputs.tail } t ∨
      ∃ i, s.rst = false ∧ exec i { s with inputs := s.inputs.tail } = .next t := by
  have hfetch : (∀ u, fetch s = .settled u → Settles { s with inputs := s.inputs.tail } u) ∧
      ∀ w u, fetch s = .operation w u → s.rst = false ∧ u = { s with inputs := s.inputs.tail } := by
    rcases s with ⟨cfg, scan, arb, latch, skeys, poll, out, rst, _ | ⟨a, rest⟩⟩
    · refine ⟨fun u hu => ?_, fun w u hu => ?_⟩ <;> cases hu
      exact settles_settle _
    · exact ⟨fun u hu => accept_eq_settled hu, fun w u hu => accept_eq_operation hu⟩
  unfold step at h
  split at h
  · rename_i u hu
    cases h
    exact .inl (hfetch.1 _ hu)
  · cases h
  · rename_i w u hu
    obtain ⟨hrst, rfl⟩ := hfetch.2 w u hu
    split at h
    · cases h
    · exact .inr ⟨_, hrst, h⟩

theorem Settles.keeps_invariant {s t : State} (h : Settles s t) (hi : Invariant s) : Invariant t := by
  obtain ⟨hrst, rfl⟩ | ⟨c, level, hc, rfl⟩ := h
  · exact hi.quiet hrst
  · exact invariant_at_reset (hc.elim (fun h => h ▸ hi.configLegal) id) level s.inputs

/-- Every step keeps the invariant (10_state.md R48). -/
theorem step_keeps_invariant {s t : State} (h : step s = .next t) (hi : Invariant s) : Invariant t := by
  obtain hsettled | ⟨i, hrst, hexec⟩ := step_cases h
  · exact hsettled.keeps_invariant (hi.withInputs _)
  · exact exec_keeps_invariant hexec (hi.withInputs _) hrst

end Sys2Proof.Machine
end

section
/-! PROOF LAYER. The matrix events of a run alternate. -/

namespace Sys2Proof.Machine

open Sys2Proof.Claims

/-- Events that go from key `a` to key `b`, and then from `b` to `c`, go from `a` to `c`. -/
theorem alternate_append {a b : Option KeyCode} {es fs : List Event} (h : alternate a es = some b) :
    alternate a (es ++ fs) = alternate b fs := by
  induction es generalizing a with
  | nil => cases a <;> cases h <;> rfl
  | cons e es ih =>
    cases a with
    | none =>
      simp only [List.cons_append, alternate] at h ⊢
      split at h
      · rename_i hpress
        rw [if_pos hpress]
        exact ih h
      · cases h
    | some k =>
      simp only [List.cons_append, alternate] at h ⊢
      split at h
      · rename_i hrelease
        rw [if_pos hrelease]
        exact ih h
      · cases h

/-- A run that completes begins with an operation that completes. -/
theorem runOps_cons {i : Instr} {is : List Instr} {s t : State} {l : Log}
    (h : runOps (i :: is) s = some (t, l)) :
    ∃ u l', exec i s = .next u ∧ runOps is u = some (t, l') ∧ l = (i, u.out.events) :: l' := by
  unfold runOps at h
  split at h
  · rename_i u hu
    obtain ⟨⟨t', l'⟩, hrun, heq⟩ := Option.map_eq_some_iff.1 h
    cases heq
    exact ⟨u, l', hu, hrun, rfl⟩
  · cases h
  · cases h

/-- The operation belongs to the timer of a standalone key. -/
def isAnyStick (i : Instr) : Bool := isStick 0#1 i || isStick 1#1 i

theorem isAnyStick_stick (n : BitVec 1) (lvl : Bool) : isAnyStick (.stick n lvl) = true := by
  revert n lvl
  decide

theorem matrixEvents_cons (i : Instr) (es : List Event) (l : Log) :
    matrixEvents ((i, es) :: l) = (if isAnyStick i then [] else es) ++ matrixEvents l := by
  cases h : isAnyStick i with
  | true => rw [matrixEvents, List.filter_cons_of_neg (by change ¬ (!isAnyStick i) = true; simp [h])]; rfl
  | false => rw [matrixEvents, List.filter_cons_of_pos (by change (!isAnyStick i) = true; simp [h])]; rfl

theorem ScanOutcome.alternates {s t : State} (h : ScanOutcome s t) :
    alternate (activeKey s) t.out.events = some (activeKey t) := by
  obtain ⟨sm, u, hstart, hstep⟩ | ⟨hscan, -, hevents⟩ := h
  · rw [← hstart.key]
    exact scanStep_alternates hstep (hstart.cfg ▸ hstart.scan) hstart.quiet
  · simp [hevents, alternate, activeKey, hscan]

/-- With `POLLED = 0` the matrix events of one operation go from the key active before it to the key active
after it (10_state.md R48 item 7). -/
theorem exec_alternates {i : Instr} {s t : State} (h : exec i s = .next t) (hi : Invariant s)
    (hpolled : s.cfg.polled = false) :
    alternate (activeKey s) (if isAnyStick i then [] else t.out.events) = some (activeKey t) := by
  have silent (hscan : t.scan = s.scan) (hevents : (if isAnyStick i then [] else t.out.events) = []) :
      alternate (activeKey s) (if isAnyStick i then [] else t.out.events) = some (activeKey t) := by
    simp [hevents, alternate, activeKey, hscan]
  cases i with
  | edge => exact (execEdge_outcome h hi).alternates
  | step => exact (execStep_outcome h hi).alternates
  | rel => exact (execRel_outcome h hi).alternates
  | nop | kstate | supp | alt => cases h; exact silent rfl rfl
  | wtick => rw [execWtick_frame h] at silent ⊢; exact silent rfl rfl
  | req => cases (execReq_eq s).symm.trans h; exact silent rfl rfl
  | rdkey => rw [(execRdkey_frame h).1] at silent ⊢; exact silent rfl rfl
  | rdrc => rw [(execRdrc_frame h).1] at silent ⊢; exact silent rfl rfl
  | sedge n lvl => rw [(execSedge_frame (lvl := lvl) h).1] at silent ⊢; exact silent rfl rfl
  | stick n lvl => exact silent (by rw [(execStick_frame h).1]) (if_pos (isAnyStick_stick n lvl))
  | ptick =>
    obtain ⟨hp, -⟩ | ⟨-, rfl⟩ := execPtick_cases h
    · simp [hpolled] at hp
    · exact silent rfl rfl

/-- The matrix events of a whole run go from the key active before it to the key active after it. -/
theorem runOps_alternates {is : List Instr} {s t : State} {l : Log} (h : runOps is s = some (t, l))
    (hi : Invariant s) (hpolled : s.cfg.polled = false) (hrst : s.rst = false) :
    alternate (activeKey s) (matrixEvents l) = some (activeKey t) := by
  induction is generalizing s l with
  | nil => cases h; simp [matrixEvents, alternate]
  | cons i is ih =>
    obtain ⟨u, l', hu, hrun, rfl⟩ := runOps_cons h
    rw [matrixEvents_cons, alternate_append (exec_alternates hu hi hpolled)]
    exact ih hrun (exec_keeps_invariant hu hi hrst) (by rw [exec_cfg hu]; exact hpolled)
      (by rw [exec_rst hu]; exact hrst)

end Sys2Proof.Machine
end

section
/-! Certificates of the statements about the invariant. -/

namespace Sys2Proof.Proofs

open Sys2Proof.Machine Sys2Proof.Claims

/-- Settles O13: each part of the invariant at its reset value. -/
theorem resetMeetsTheInvariant : Obligations.ResetMeetsTheInvariant :=
  fun _ h => invariant_at_reset h false []

/-- Settles O14: a step settles at reset or as it was, or runs one operation, which keeps each part. -/
theorem stepKeepsTheInvariant : Obligations.StepKeepsTheInvariant :=
  fun _ _ _ hi h => step_keeps_invariant h hi

/-- Settles O55, by induction on the operations of the run. -/
theorem pressAndReleaseAlternate : Obligations.PressAndReleaseAlternate :=
  fun _ _ _ _ _ hi hpolled hrst h => runOps_alternates h hi hpolled hrst

end Sys2Proof.Proofs
end

section
/-! PROOF LAYER. The decoder on encoded words, what one input comes to in a step, and what a strobe makes. -/

namespace Sys2Proof

/-- Decoding undoes encoding, format by format over the operands of each (30_encoding.md R91, R92, R95). -/
theorem decode_encode (i : Instr) : decode (encode i) = .ok i := by
  cases i with
  | nop | wtick | req | rdkey | rdrc => rfl
  | edge r sm => obtain ⟨s0, s1, s2⟩ := sm; revert r s0 s1 s2; decide
  | step sm => obtain ⟨s0, s1, s2⟩ := sm; revert s0 s1 s2; decide
  | rel rows sm => obtain ⟨s0, s1, s2⟩ := sm; revert rows s0 s1 s2; decide
  | kstate k => revert k; decide
  | supp j | alt j => revert j; decide
  | sedge n lvl | stick n lvl => revert n lvl; decide
  | ptick rows => revert rows; decide

end Sys2Proof

namespace Sys2Proof.Machine

open Sys2Proof.Claims

/-! What a step does with the input it fetches -/

theorem fetch_cons {s : State} {a : Input} {rest : List Input} (h : s.inputs = a :: rest) :
    fetch s = accept { s with inputs := rest } a := by
  rw [fetch, h]

theorem step_settled {s t : State} (h : fetch s = .settled t) : step s = .next t := by
  rw [step, h]

theorem step_outside {s : State} {r : Refusal} (h : fetch s = .outside r) : step s = .refused r := by
  rw [step, h]

theorem step_operation {s t : State} {w : OpWord} {i : Instr} (h : fetch s = .operation w t)
    (hw : decode w = .ok i) : step s = exec i t := by
  rw [step, h]
  dsimp only
  rw [hw]

/-- Out of reset a word at the operation port is the operation to execute. -/
theorem accept_word {s : State} (hrst : s.rst = false) (rest : List Input) (w : OpWord) :
    accept { s with inputs := rest } (.word w) = .operation w { s with inputs := rest } :=
  takeWord_of_running (s := { s with inputs := rest }) hrst w

/-- In reset a legal configuration is taken (70_reset_and_hazards.md R253). -/
theorem accept_configure_of_reset {s : State} {c : Config} (hrst : s.rst = true) (hwf : c.wf = true)
    (rest : List Input) :
    accept { s with inputs := rest } (.configure c) =
      .settled { State.resetOf c with rst := true, inputs := rest } := by
  simp [accept, reconfigure, hrst, hwf, State.held]

/-- Out of reset a change of the configuration is outside the spec (R269). -/
theorem accept_configure_change {s : State} {c : Config} (hrst : s.rst = false) (hne : c ≠ s.cfg)
    (rest : List Input) :
    accept { s with inputs := rest } (.configure c) = .outside .configurationChanged := by
  simp [accept, reconfigure, hrst, hne]

/-- Out of reset the values already held are no change (log entry 11). -/
theorem accept_configure_same {s : State} (hrst : s.rst = false) (rest : List Input) :
    accept { s with inputs := rest } (.configure s.cfg) = .settled { s with inputs := rest, out := {} } := by
  simp [accept, reconfigure, hrst, State.settle, State.quiet]

/-- Neither the inputs to come nor the last outputs enter the word of a strobe. -/
theorem strobeWord_settle {s : State} (hrst : s.rst = false) (rest : List Input) (st : Strobe) :
    strobeWord (State.settle { s with inputs := rest }) st = strobeWord s st := by
  rw [State.settle_of_running (by exact hrst), strobeWord_quiet]
  cases st <;> rfl

/-- Out of reset a strobe that makes no word leaves the block as it was (log entry 2). -/
theorem accept_strobe_none {s : State} {st : Strobe} {rest : List Input} (hrst : s.rst = false)
    (hw : strobeWord s st = none) :
    accept { s with inputs := rest } (.strobe st) = .settled { s with inputs := rest, out := {} } := by
  simp only [accept, strobeWord_settle hrst, hw]
  rw [State.settle_of_running (by exact hrst)]
  rfl

/-- Out of reset a strobe comes to the operation of its word. -/
theorem accept_strobe_some {s : State} {st : Strobe} {rest : List Input} {w : OpWord} (hrst : s.rst = false)
    (hw : strobeWord s st = some w) :
    accept { s with inputs := rest } (.strobe st) = .operation w { s with inputs := rest } := by
  simp only [accept, strobeWord_settle hrst, hw]
  exact takeWord_of_running (s := { s with inputs := rest }) hrst w

/-! The samples a strobe carries (20_memory.md R67) -/

theorem delivered_eq_some {g : Bool} {w w' : OpWord} : delivered g w = some w' ↔ g = true ∧ w = w' := by
  cases g <;> simp [delivered]

theorem samplesOfRow_eq (c : Config) (r : Nat) (l0 l1 l2 : BitVec 5) :
    samplesOfRow c r l0 l1 l2 = rowSamples c r l0 l1 l2 := rfl

theorem rowsRead_sampleRows (c : Config) (levels : BitVec 5) : RowsRead c levels (sampleRows c levels) :=
  fun _ hq => sampleRows_getLsbD c levels hq

/-- One reading of the row pins has one row vector. -/
theorem eq_sampleRows_of_rowsRead {c : Config} {levels rows : BitVec 5} (h : RowsRead c levels rows) :
    rows = sampleRows c levels :=
  BitVec.eq_of_getLsbD_eq fun q hq => (h q hq).trans (rowsRead_sampleRows c levels q hq).symm

/-- STEP carries three samples of the cursor's row in `IdentifyButton` and the first alone elsewhere. -/
theorem scanTickSamples_eq (s : State) (l0 l1 l2 : BitVec 5) :
    scanTickSamples s l0 l1 l2 =
      if s.scan.phase = .identifyButton then rowSamples s.cfg s.scan.currentRow.toNat l0 l1 l2
      else ⟨rowAsserted s.cfg s.scan.currentRow.toNat l0, false, false⟩ := by
  unfold scanTickSamples
  cases s.scan.phase <;> rfl

/-- A strobe makes the word R62 gives it. -/
theorem strobeMakes_strobeWord (s : State) (st : Strobe) : StrobeMakes s (strobeWord s st) st := by
  cases st with
  | rowEdge r l0 l1 l2 => simp [StrobeMakes, strobeWord, delivered, samplesOfRow_eq]
  | scanTick l0 l1 l2 => simp [StrobeMakes, strobeWord, delivered, scanTickSamples_eq]
  | winTick | peerReq | query | skeyEdge | skeyTick => rfl
  | peerRel levels l0 l1 l2 =>
    refine ⟨_, _, rfl, rowsRead_sampleRows s.cfg levels, relSamples_released l0 l1 l2, fun hp r hr => ?_⟩
    rw [relSamples_lowest l0 l1 l2 hp (lowestRow_eq_some.2 hr), samplesOfRow_eq]
  | pollTick levels =>
    cases hp : s.cfg.polled with
    | false => simp [StrobeMakes, strobeWord, delivered, hp]
    | true =>
      simp only [StrobeMakes, strobeWord, delivered, hp, if_true]
      exact ⟨_, rfl, fun ho => pollTickRows_scanner levels ho ▸ rowsRead_sampleRows s.cfg levels,
        pollTickRows_peer levels⟩

/-! The enables (10_state.md R28, R29) -/

theorem irqEn_iff {s : State} :
    irqEn s = true ↔ s.cfg.polled = false ∧ s.scan.phase = .idle ∧ s.arb.owner = .scanner := by
  simp [irqEn, and_assoc]

theorem timerArmed_iff {s : State} :
    timerArmed s = true ↔ s.cfg.polled = false ∧ s.scan.phase ≠ .idle ∧ s.arb.owner = .scanner := by
  simp [timerArmed, and_assoc]

/-! The columns selected while a row is sampled (40_scan_state_machine.md R132) -/

/-- Right after EdgeEntry the last column is selected, or `poll_col` in the polled variant. -/
theorem colPattern_edgeEntry_iff {s : State} (hwf : s.cfg.wf = true) (r : U8) (c : Nat) :
    colPattern (edgeEntry r s) c = true ↔
      c = if s.cfg.polled = true then s.poll.col.toNat else s.cfg.numCols - 1 := by
  cases hp : s.cfg.polled with
  | false => simp [colPattern_edgeEntry hp, lastColumn_toNat hwf]
  | true => simp [colPattern, hp]

/-- In a resting phase of a cycle the cursor's column is selected, and every one in `CheckForKeyChange`. -/
theorem colPattern_armed {s : State} (hpolled : s.cfg.polled = false) (hidle : s.scan.phase ≠ .idle)
    (hrest : s.scan.phase ≠ .releaseDetected) (c : Nat) :
    colPattern s c = true ↔ s.scan.phase = .checkForKeyChange ∨ c = s.scan.currentColumn.toNat := by
  cases hp : s.scan.phase with
  | idle => exact absurd hp hidle
  | releaseDetected => exact absurd hp hrest
  | identifyButton | releasePending | checkForKeyChange => simp [colPattern, hpolled, hp]

/-- While its row is sampled a strobe has the columns of R132 selected. -/
theorem sampledColumns_of_invariant {s : State} (hi : Invariant s) (st : Strobe) : SampledColumns s st := by
  cases st with
  | rowEdge r l0 l1 l2 =>
    intro c
    rw [sampledUnder, Bool.and_eq_true, Bool.and_eq_true, rowInRange_iff, and_assoc]
    refine and_congr_right fun hirq => and_congr_right fun _ => ?_
    obtain ⟨hpolled, -⟩ := irqEn_iff.1 hirq
    simpa [hpolled] using colPattern_edgeEntry_iff hi.configLegal (r.setWidth 8) c
  | scanTick l0 l1 l2 =>
    intro c
    rw [sampledUnder, Bool.and_eq_true]
    refine and_congr_right fun harmed => ?_
    obtain ⟨hpolled, hidle, -⟩ := timerArmed_iff.1 harmed
    exact colPattern_armed hpolled hidle hi.restingPhase c
  | peerRel levels l0 l1 l2 =>
    refine ⟨fun hidle rows hrows hne c => ?_, fun hbusy c => ?_, fun hidle hpolled c => ?_⟩
    · rw [eq_sampleRows_of_rowsRead hrows] at hne
      obtain ⟨r, hr⟩ := Option.ne_none_iff_exists'.1 (mt lowestRow_eq_none.1 hne)
      simpa [sampledUnder, hidle, hr] using colPattern_edgeEntry_iff hi.configLegal (BitVec.ofNat 8 r) c
    · simp [sampledUnder, hbusy]
    · simp [rowsReadUnder, colPattern, hpolled, hidle]
  | pollTick levels =>
    intro c
    rw [sampledUnder, Bool.and_eq_true, Bool.and_eq_true, and_assoc, beq_iff_eq]
    refine and_congr_right fun hpolled => and_congr_right fun _ => ?_
    simp [rowsReadUnder, colPattern, hpolled]
  | winTick | peerReq | query | skeyEdge | skeyTick => exact fun _ => rfl

/-! The words of strobes are legal (30_encoding.md R96) -/

/-- A standalone key with a state is one of the configuration's. -/
theorem lt_nSkey_of_any {s : State} (hi : Invariant s) {n : Nat} {p : StandaloneKeyState → Bool}
    (h : s.skeys[n]?.any p = true) : n < s.cfg.nSkey := by
  obtain ⟨k, hk, -⟩ := (Option.any_eq_true _ _).1 h
  obtain ⟨hlt, -⟩ := List.getElem?_eq_some_iff.1 hk
  rwa [hi.keyCount] at hlt

/-- A strobe that is no query makes the word of an operation with operands in range. -/
theorem strobeWord_legal {s : State} {st : Strobe} {w : OpWord} (hi : Invariant s)
    (h : strobeWord s st = some w) :
    (∃ op arg, st = .query op arg) ∨ ∃ i : Instr, w = encode i ∧ i.wf s.cfg = true := by
  cases st with
  | rowEdge r l0 l1 l2 =>
    obtain ⟨hguard, rfl⟩ := delivered_eq_some.1 h
    obtain ⟨-, hr⟩ := Bool.and_eq_true_iff.1 hguard
    exact .inr ⟨_, rfl, hr⟩
  | scanTick l0 l1 l2 =>
    obtain ⟨-, rfl⟩ := delivered_eq_some.1 h
    exact .inr ⟨_, rfl, rfl⟩
  | winTick | peerReq => cases h; exact .inr ⟨_, rfl, rfl⟩
  | peerRel levels l0 l1 l2 =>
    cases h
    exact .inr ⟨_, rfl, decide_eq_true (sampleRows_lt s.cfg levels)⟩
  | query op arg => exact .inl ⟨op, arg, rfl⟩
  | skeyEdge n lvl | skeyTick n lvl =>
    obtain ⟨hn, rfl⟩ := delivered_eq_some.1 h
    exact .inr ⟨_, rfl, decide_eq_true (lt_nSkey_of_any hi hn)⟩
  | pollTick levels =>
    obtain ⟨-, rfl⟩ := delivered_eq_some.1 h
    exact .inr ⟨_, rfl, decide_eq_true (pollTickRows_lt s levels)⟩

end Sys2Proof.Machine
end

section
/-! PROOF LAYER. How many events an operation emits, and that it scans nothing under the peer. -/

namespace Sys2Proof.Machine

/-- EDGE, STEP, REL, STICK and PTICK are the only operations that emit. -/
theorem exec_events_nil {i : Instr} {s t : State} (h : exec i s = .next t) (hedge : ∀ r sm, i ≠ .edge r sm)
    (hstep : ∀ sm, i ≠ .step sm) (hrel : ∀ rows sm, i ≠ .rel rows sm)
    (hstick : ∀ n lvl, i ≠ .stick n lvl) (hptick : ∀ rows, i ≠ .ptick rows) : t.out.events = [] := by
  cases i with
  | edge r sm => exact absurd rfl (hedge r sm)
  | step sm => exact absurd rfl (hstep sm)
  | rel rows sm => exact absurd rfl (hrel rows sm)
  | stick n lvl => exact absurd rfl (hstick n lvl)
  | ptick rows => exact absurd rfl (hptick rows)
  | nop | kstate | supp | alt => cases h; rfl
  | wtick => rw [execWtick_frame h]
  | req => cases (execReq_eq s).symm.trans h; rfl
  | rdkey => rw [(execRdkey_frame h).1]
  | rdrc => rw [(execRdrc_frame h).1]
  | sedge n lvl => rw [(execSedge_frame (lvl := lvl) h).1]

/-! At most one event (20_memory.md R70) -/

theorem releaseDetectedAction_events_length (s : State) :
    (releaseDetectedAction s).out.events.length ≤ s.out.events.length + 1 := by
  rw [releaseDetectedAction_eq]
  cases s.scan.activeValid <;> simp

/-- A scan step emits at most one event. -/
theorem scanStep_events_length {sm : Samples} {s t : State} (h : scanStep sm s = .next t) :
    t.out.events.length ≤ s.out.events.length + 1 := by
  cases scanStep_cases h with
  | confirms => simp
  | failsLastColumn | endsCycle | leavesReleaseDetected => exact releaseDetectedAction_events_length s
  | changesKey =>
    rw [keyChangeStep_eq]
    cases s.scan.activeValid <;> simp
  | _ => exact Nat.le_succ _

/-- EDGE runs a scan step right after EdgeEntry, or is ignored (R128). -/
theorem execEdge_cases {r : BitVec 3} {sm : Samples} {s t : State} (h : execEdge r sm s = .next t) :
    irqEn s = true ∧ scanStep sm (edgeEntry (r.setWidth 8) s.quiet) = .next t ∨
      irqEn s = false ∧ t = s.quiet := by
  unfold execEdge at h
  split at h
  · cases hirq : irqEn s with
    | true => rw [if_pos hirq] at h; exact .inl ⟨rfl, h⟩
    | false => rw [hirq] at h; cases h; exact .inr ⟨rfl, rfl⟩
  · cases h

/-- STEP runs a scan step, or is ignored (R129). -/
theorem execStep_cases {sm : Samples} {s t : State} (h : execStep sm s = .next t) :
    timerArmed s = true ∧ scanStep sm s.quiet = .next t ∨ timerArmed s = false ∧ t = s.quiet := by
  unfold execStep at h
  cases harmed : timerArmed s with
  | true => rw [if_pos harmed] at h; exact .inl ⟨rfl, h⟩
  | false => rw [harmed] at h; cases h; exact .inr ⟨rfl, rfl⟩

/-- REL runs a scan step from a state that has reported nothing, or reports nothing (R151 to R153). -/
theorem execRel_cases {rows : BitVec 5} {sm : Samples} {s t : State} (h : execRel rows sm s = .next t) :
    (∃ u, u.out.events = [] ∧ scanStep sm u = .next t) ∨ t.out.events = [] := by
  unfold execRel at h
  split at h
  · split at h
    · dsimp only at h
      split at h
      · unfold lostKeypressPoll at h
        split at h
        · cases h; exact .inr rfl
        · exact .inl ⟨_, rfl, h⟩
      · cases h; exact .inr rfl
    · cases h; exact .inr rfl
  · cases h

/-- From a state that has reported nothing a scan step leaves at most one event. -/
theorem scanStep_events_le_one {sm : Samples} {u t : State} (hquiet : u.out.events = [])
    (h : scanStep sm u = .next t) : t.out.events.length ≤ 1 := by
  simpa [hquiet] using scanStep_events_length h

theorem execStick_events_le_one {n : BitVec 1} {lvl : Bool} {s t : State} (h : execStick n lvl s = .next t) :
    t.out.events.length ≤ 1 := by
  unfold execStick at h
  split at h
  · split at h
    · split at h
      · cases h; simp
      · split at h <;> cases h <;> simp
    · cases h
  · cases h

/-- Every operation but PTICK emits at most one event. -/
theorem exec_events_le_one {i : Instr} {s t : State} (h : exec i s = .next t)
    (hptick : ∀ rows, i ≠ .ptick rows) : t.out.events.length ≤ 1 := by
  cases i with
  | edge =>
    obtain ⟨-, hstep⟩ | ⟨-, rfl⟩ := execEdge_cases h
    · exact scanStep_events_le_one rfl hstep
    · simp
  | step =>
    obtain ⟨-, hstep⟩ | ⟨-, rfl⟩ := execStep_cases h
    · exact scanStep_events_le_one rfl hstep
    · simp
  | rel =>
    obtain ⟨u, hquiet, hstep⟩ | hnil := execRel_cases h
    · exact scanStep_events_le_one hquiet hstep
    · simp [hnil]
  | stick => exact execStick_events_le_one h
  | ptick rows => exact absurd rfl (hptick rows)
  | _ => simp [exec_events_nil h]

/-- One row of a poll emits at most one event. -/
theorem pollCell_events_length {a : Bool} {r c : Nat} {s t : State} (h : pollCell a r c s = .next t) :
    t.out.events.length ≤ s.out.events.length + 1 := by
  obtain ⟨x, -, ⟨-, rfl⟩ | ⟨-, -, k, -, rfl⟩ | ⟨-, -, rfl⟩⟩ := pollCell_eq_next.1 h <;> simp

/-- A poll emits at most one event for each row polled. -/
theorem pollRows_events_length {rows : BitVec 5} {c : Nat} {rs : List Nat} {s t : State}
    (h : pollRows rows c rs s = .next t) : t.out.events.length ≤ s.out.events.length + rs.length := by
  induction rs generalizing s with
  | nil => cases h; exact Nat.le_refl _
  | cons r rs ih =>
    obtain ⟨u, hu, ht⟩ := andThen_eq_next.1 h
    have hfirst := pollCell_events_length hu
    have hothers := ih ht
    rw [List.length_cons]
    omega

theorem execPtick_events_length {rows : BitVec 5} {s t : State} (h : execPtick rows s = .next t) :
    t.out.events.length ≤ s.cfg.numRows := by
  obtain ⟨-, -, u, hu, rfl⟩ | ⟨-, rfl⟩ := execPtick_cases h
  · simpa using pollRows_events_length hu
  · simp

/-! Under the peer (41_shared_pin_arbiter.md R154) -/

theorem irqEn_of_peer {s : State} (h : s.arb.owner = .externalPeer) : irqEn s = false := by
  simp [irqEn, h]

theorem timerArmed_of_peer {s : State} (h : s.arb.owner = .externalPeer) : timerArmed s = false := by
  simp [timerArmed, h]

/-- Under the peer an operation that samples the matrix is ignored. -/
theorem exec_sampling_of_peer {i : Instr} {s t : State} (h : exec i s = .next t)
    (ho : s.arb.owner = .externalPeer) (hi : Claims.isSampling i = true) : t = s.quiet := by
  cases i with
  | edge =>
    obtain ⟨hirq, -⟩ | ⟨-, ht⟩ := execEdge_cases h
    · simp [irqEn_of_peer ho] at hirq
    · exact ht
  | step =>
    obtain ⟨harmed, -⟩ | ⟨-, ht⟩ := execStep_cases h
    · simp [timerArmed_of_peer ho] at harmed
    · exact ht
  | ptick =>
    obtain ⟨-, hscanner, -⟩ | ⟨-, ht⟩ := execPtick_cases h
    · simp [ho] at hscanner
    · exact ht
  | _ => cases hi

/-- Nothing of the matrix has moved from `s` to `t`, and the peer has the pins. -/
structure PeerHolds (s t : State) : Prop where
  scan : t.scan = s.scan
  poll : t.poll = s.poll
  owner : t.arb.owner = .externalPeer

/-- Only REL takes the pins from the peer. -/
theorem exec_owner_of_peer {i : Instr} {s t : State} (h : exec i s = .next t)
    (ho : s.arb.owner = .externalPeer) (hrel : ∀ rows sm, i ≠ .rel rows sm) :
    t.arb.owner = .externalPeer := by
  by_contra hmoved
  obtain ⟨-, hpeer⟩ | ⟨⟨rows, sm, hi⟩, -⟩ := exec_owner_moved h (by rwa [ho])
  · exact hmoved hpeer
  · exact hrel rows sm hi

/-- Under the peer every operation but REL leaves the matrix as it is and reports nothing of it. -/
theorem exec_peerHolds {i : Instr} {s t : State} (h : exec i s = .next t) (ho : s.arb.owner = .externalPeer)
    (hrel : Claims.isRel i = false) :
    PeerHolds s t ∧ (if isAnyStick i then [] else t.out.events) = [] := by
  have howner := exec_owner_of_peer h ho (by rintro rows sm rfl; cases hrel)
  cases i with
  | edge | step | ptick =>
    cases exec_sampling_of_peer h ho rfl
    exact ⟨⟨rfl, rfl, ho⟩, rfl⟩
  | rel => cases hrel
  | stick n lvl =>
    exact ⟨⟨exec_scan h (by simp) (by simp) (by simp), exec_poll h (by simp), howner⟩,
      if_pos (isAnyStick_stick n lvl)⟩
  | _ =>
    exact ⟨⟨exec_scan h (by simp) (by simp) (by simp), exec_poll h (by simp), howner⟩,
      exec_events_nil h (by simp) (by simp) (by simp) (by simp) (by simp)⟩

/-- Under the peer a run without REL leaves the matrix as it is and reports nothing of it. -/
theorem runOps_peerHolds {is : List Instr} {s t : State} {l : Log} (h : runOps is s = some (t, l))
    (ho : s.arb.owner = .externalPeer) (hrel : is.all (fun i => !Claims.isRel i) = true) :
    PeerHolds s t ∧ matrixEvents l = [] := by
  induction is generalizing s l with
  | nil => cases h; exact ⟨⟨rfl, rfl, ho⟩, rfl⟩
  | cons i is ih =>
    obtain ⟨u, l', hu, hrun, rfl⟩ := runOps_cons h
    obtain ⟨hhead, htail⟩ := Bool.and_eq_true_iff.1 (List.all_cons.symm.trans hrel)
    obtain ⟨hfirst, hsilent⟩ := exec_peerHolds hu ho (by simpa using hhead)
    obtain ⟨hrest, hevents⟩ := ih hrun hfirst.owner htail
    refine ⟨⟨hrest.scan.trans hfirst.scan, hrest.poll.trans hfirst.poll, hrest.owner⟩, ?_⟩
    rw [matrixEvents_cons, hsilent, hevents, List.append_nil]

end Sys2Proof.Machine
end

section
/-! Certificates of the statements about inputs, strobes, events and the peer's hold on the pins. -/

namespace Sys2Proof.Proofs

open Sys2Proof.Machine Sys2Proof.Claims

/-- Settles O6: out of reset a word comes to the operation it decodes to. -/
theorem stepRunsTheDecodedOperation : Obligations.StepRunsTheDecodedOperation :=
  fun _ w _ _ _ hin hrst hw => step_operation ((fetch_cons hin).trans (accept_word hrst _ w)) hw

/-- Settles O8 in its three parts: the word, the columns, and the step that runs the word. -/
theorem stepTurnsAStrobeIntoItsWord : Obligations.StepTurnsAStrobeIntoItsWord :=
  fun s st _ => ⟨strobeMakes_strobeWord s st, fun hi => sampledColumns_of_invariant hi st,
    fun _ hin hrst =>
      ⟨fun hnone => step_settled ((fetch_cons hin).trans (accept_strobe_none hrst hnone)),
        fun _ _ hsome => step_operation ((fetch_cons hin).trans (accept_strobe_some hrst hsome))⟩⟩

/-- Settles O9: the word is the encoding of an operation in range, which it decodes to. -/
theorem strobesMakeLegalWords : Obligations.StrobesMakeLegalWords := by
  intro s st w _ hi hw
  refine (strobeWord_legal hi hw).imp_right ?_
  rintro ⟨i, rfl, hwf⟩
  exact ⟨i, decode_encode i, hwf⟩

/-- Settles O12 from the three things the configuration inputs can come to. -/
theorem configurationChangesOnlyInReset : Obligations.ConfigurationChangesOnlyInReset := by
  intro s c rest hin hwf
  have hfetch := fetch_cons hin
  refine ⟨fun hrst => step_settled (hfetch.trans (accept_configure_of_reset hrst hwf rest)),
    fun _ hrst => ⟨fun hne => step_outside (hfetch.trans (accept_configure_change hrst hne rest)), ?_⟩⟩
  rintro rfl
  exact step_settled (hfetch.trans (accept_configure_same hrst rest))

/-- Settles O48: a scan step and a standalone key report once at most, a poll once for each row. -/
theorem atMostOneEventUnlessPolled : Obligations.AtMostOneEventUnlessPolled := by
  intro i s t _ h
  cases i with
  | ptick => exact execPtick_events_length h
  | _ => exact exec_events_le_one h (by simp)

/-- Settles O52, by induction on the operations of the run. -/
theorem nothingIsScannedUntilRelease : Obligations.NothingIsScannedUntilRelease := by
  intro is s t l _ ho hrel h
  obtain ⟨⟨hscan, hpoll, howner⟩, hevents⟩ := runOps_peerHolds h ho hrel
  exact ⟨hscan, hpoll, howner, hevents⟩

end Sys2Proof.Proofs
end

section
/-! PROOF LAYER. The decoder on every word: a word that decodes is the word of its operation, and it decodes to an
operation of the row it matches (30_encoding.md R91, R95, R96). -/

namespace Sys2Proof

open Sys2Proof.Laws

/-! A word is made of its fields (30_encoding.md R90 to R92) -/

/-- Two adjacent fields of a word are one. -/
theorem append_field (w : OpWord) {a b m n : Nat} (h : a = b + n) :
    w.extractLsb' a m ++ w.extractLsb' b n = w.extractLsb' b (m + n) :=
  BitVec.extractLsb'_append_extractLsb'_eq_extractLsb' h

theorem ofBool_getLsbD (w : OpWord) (n : Nat) : BitVec.ofBool (w.getLsbD n) = w.extractLsb' n 1 := by
  apply BitVec.eq_of_getLsbD_eq
  intro q hq
  obtain rfl : q = 0 := by omega
  simp

/-- The samples of a word are its three lowest bits. -/
theorem samplesOf_bits (w : OpWord) : (samplesOf w).bits = w.extractLsb' 0 3 := by
  simp only [Samples.bits, samplesOf, ofBool_getLsbD, append_field]

theorem opcodeOf_eq_ofNat {w : OpWord} {k : Nat} (hop : (opcodeOf w).toNat = k) :
    BitVec.ofNat 4 k = w.extractLsb' 12 4 := by
  rw [← hop, BitVec.ofNat_toNat, BitVec.setWidth_eq, opcodeOf]

theorem whereZero_eq_ok {zero : Bool} {i j : Instr} : whereZero zero i = .ok j ↔ zero = true ∧ i = j := by
  cases zero <;> simp [whereZero]

/-! What a format accepts is the word its table writes: the opcode, the operands and 0 elsewhere (R91) -/

theorem word_of_formatZ {w : OpWord} {k : Nat} {f i : Instr} (hop : (opcodeOf w).toNat = k)
    (h : formatZ w f = .ok i) : f = i ∧ BitVec.ofNat 4 k ++ 0#12 = w := by
  obtain ⟨hzero, hi⟩ := whereZero_eq_ok.1 h
  refine ⟨hi, ?_⟩
  rw [opcodeOf_eq_ofNat hop, ← beq_iff_eq.1 hzero]
  simp only [append_field]
  exact BitVec.extractLsb'_eq_self

theorem word_of_formatS {w : OpWord} {k : Nat} {f : Samples → Instr} {i : Instr}
    (hop : (opcodeOf w).toNat = k) (h : formatS w f = .ok i) :
    ∃ sm, f sm = i ∧ BitVec.ofNat 4 k ++ 0#9 ++ sm.bits = w := by
  obtain ⟨hzero, hi⟩ := whereZero_eq_ok.1 h
  refine ⟨_, hi, ?_⟩
  rw [opcodeOf_eq_ofNat hop, ← beq_iff_eq.1 hzero, samplesOf_bits]
  simp only [append_field]
  exact BitVec.extractLsb'_eq_self

theorem word_of_formatE {w : OpWord} {k : Nat} {f : BitVec 3 → Samples → Instr} {i : Instr}
    (hop : (opcodeOf w).toNat = k) (h : formatE w f = .ok i) :
    ∃ r sm, f r sm = i ∧ BitVec.ofNat 4 k ++ 0#1 ++ r ++ 0#5 ++ sm.bits = w := by
  obtain ⟨hzero, hi⟩ := whereZero_eq_ok.1 h
  obtain ⟨hhigh, hlow⟩ := Bool.and_eq_true_iff.1 hzero
  refine ⟨_, _, hi, ?_⟩
  rw [opcodeOf_eq_ofNat hop, ← beq_iff_eq.1 hhigh, ← beq_iff_eq.1 hlow, samplesOf_bits]
  simp only [append_field]
  exact BitVec.extractLsb'_eq_self

theorem word_of_formatV {w : OpWord} {k : Nat} {f : BitVec 5 → Samples → Instr} {i : Instr}
    (hop : (opcodeOf w).toNat = k) (h : formatV w f = .ok i) :
    ∃ rows sm, f rows sm = i ∧ BitVec.ofNat 4 k ++ 0#3 ++ rows ++ 0#1 ++ sm.bits = w := by
  obtain ⟨hzero, hi⟩ := whereZero_eq_ok.1 h
  obtain ⟨hhigh, hlow⟩ := Bool.and_eq_true_iff.1 hzero
  refine ⟨_, _, hi, ?_⟩
  rw [opcodeOf_eq_ofNat hop, ← beq_iff_eq.1 hhigh, ← beq_iff_eq.1 hlow, samplesOf_bits]
  simp only [append_field]
  exact BitVec.extractLsb'_eq_self

theorem word_of_formatP {w : OpWord} {k : Nat} {f : BitVec 5 → Instr} {i : Instr}
    (hop : (opcodeOf w).toNat = k) (h : formatP w f = .ok i) :
    ∃ rows, f rows = i ∧ BitVec.ofNat 4 k ++ 0#3 ++ rows ++ 0#4 = w := by
  obtain ⟨hzero, hi⟩ := whereZero_eq_ok.1 h
  obtain ⟨hhigh, hlow⟩ := Bool.and_eq_true_iff.1 hzero
  refine ⟨_, hi, ?_⟩
  rw [opcodeOf_eq_ofNat hop, ← beq_iff_eq.1 hhigh, ← beq_iff_eq.1 hlow]
  simp only [append_field]
  exact BitVec.extractLsb'_eq_self

theorem word_of_formatK {w : OpWord} {k : Nat} {f : KeyCode → Instr} {i : Instr}
    (hop : (opcodeOf w).toNat = k) (h : formatK w f = .ok i) :
    ∃ code, f code = i ∧ BitVec.ofNat 4 k ++ 0#4 ++ code = w := by
  obtain ⟨hzero, hi⟩ := whereZero_eq_ok.1 h
  refine ⟨_, hi, ?_⟩
  rw [opcodeOf_eq_ofNat hop, ← beq_iff_eq.1 hzero]
  simp only [append_field]
  exact BitVec.extractLsb'_eq_self

theorem word_of_formatI {w : OpWord} {k : Nat} {f : BitVec 5 → Instr} {i : Instr}
    (hop : (opcodeOf w).toNat = k) (h : formatI w f = .ok i) :
    ∃ idx, f idx = i ∧ BitVec.ofNat 4 k ++ 0#7 ++ idx = w := by
  obtain ⟨hzero, hi⟩ := whereZero_eq_ok.1 h
  refine ⟨_, hi, ?_⟩
  rw [opcodeOf_eq_ofNat hop, ← beq_iff_eq.1 hzero]
  simp only [append_field]
  exact BitVec.extractLsb'_eq_self

theorem word_of_formatL {w : OpWord} {k : Nat} {f : BitVec 1 → Bool → Instr} {i : Instr}
    (hop : (opcodeOf w).toNat = k) (h : formatL w f = .ok i) :
    ∃ n lvl, f n lvl = i ∧ BitVec.ofNat 4 k ++ 0#3 ++ n ++ 0#7 ++ BitVec.ofBool lvl = w := by
  obtain ⟨hzero, hi⟩ := whereZero_eq_ok.1 h
  obtain ⟨hhigh, hlow⟩ := Bool.and_eq_true_iff.1 hzero
  refine ⟨_, _, hi, ?_⟩
  rw [opcodeOf_eq_ofNat hop, ← beq_iff_eq.1 hhigh, ← beq_iff_eq.1 hlow, ofBool_getLsbD]
  simp only [append_field]
  exact BitVec.extractLsb'_eq_self

/-- Encoding undoes decoding, opcode by opcode. -/
theorem encode_decode {w : OpWord} {i : Instr} (h : decode w = .ok i) : encode i = w := by
  unfold decode at h
  split at h
  next hop => obtain ⟨rfl, hw⟩ := word_of_formatZ hop h; exact hw
  next hop => obtain ⟨r, sm, rfl, hw⟩ := word_of_formatE hop h; exact hw
  next hop => obtain ⟨sm, rfl, hw⟩ := word_of_formatS hop h; exact hw
  next hop => obtain ⟨rfl, hw⟩ := word_of_formatZ hop h; exact hw
  next hop => obtain ⟨rfl, hw⟩ := word_of_formatZ hop h; exact hw
  next hop => obtain ⟨rows, sm, rfl, hw⟩ := word_of_formatV hop h; exact hw
  next hop => obtain ⟨rfl, hw⟩ := word_of_formatZ hop h; exact hw
  next hop => obtain ⟨rfl, hw⟩ := word_of_formatZ hop h; exact hw
  next hop => obtain ⟨code, rfl, hw⟩ := word_of_formatK hop h; exact hw
  next hop => obtain ⟨idx, rfl, hw⟩ := word_of_formatI hop h; exact hw
  next hop => obtain ⟨idx, rfl, hw⟩ := word_of_formatI hop h; exact hw
  next hop => obtain ⟨n, lvl, rfl, hw⟩ := word_of_formatL hop h; exact hw
  next hop => obtain ⟨n, lvl, rfl, hw⟩ := word_of_formatL hop h; exact hw
  next hop => obtain ⟨rows, rfl, hw⟩ := word_of_formatP hop h; exact hw
  next => cases h

/-! The opcode map (R95) -/

/-- The word of an operation matches the operation's row, which names it. -/
theorem encodeMatchesRow (i : Instr) : EncodeMatchesRow.Statement i := by
  cases i with
  | nop => exact EncodeMatchesRow.nop
  | edge r sm => exact EncodeMatchesRow.edge r sm
  | step sm => exact EncodeMatchesRow.step sm
  | wtick => exact EncodeMatchesRow.wtick
  | req => exact EncodeMatchesRow.req
  | rel rows sm => exact EncodeMatchesRow.rel rows sm
  | rdkey => exact EncodeMatchesRow.rdkey
  | rdrc => exact EncodeMatchesRow.rdrc
  | kstate k => exact EncodeMatchesRow.kstate k
  | supp i => exact EncodeMatchesRow.supp i
  | alt i => exact EncodeMatchesRow.alt i
  | sedge n lvl => exact EncodeMatchesRow.sedge n lvl
  | stick n lvl => exact EncodeMatchesRow.stick n lvl
  | ptick rows => exact EncodeMatchesRow.ptick rows

/-- The map has a row for every operation. -/
theorem opcodeRow_mem_opcodeMap (i : Instr) : opcodeRow i ∈ opcodeMap := by
  cases i <;> simp [opcodeMap, opcodeRow]

/-- The map has no row but those of operations. -/
theorem exists_opcodeRow {row : OpcodeRow} (h : row ∈ opcodeMap) : ∃ j, opcodeRow j = row := by
  obtain ⟨j, -, hj⟩ := List.mem_map.1 h
  exact ⟨j, hj⟩

/-- A mnemonic names one row of the map. -/
theorem opcodeMap_mnemonic_inj : ∀ a ∈ opcodeMap, ∀ b ∈ opcodeMap, a.mnemonic = b.mnemonic → a = b := by
  decide

/-- A field that a row's mask keeps is the row's. -/
theorem field_of_matches {w mask pattern : OpWord} (h : w &&& mask = pattern) (a n : Nat)
    (hmask : mask.extractLsb' a n = BitVec.allOnes n) : w.extractLsb' a n = pattern.extractLsb' a n := by
  rw [← h, BitVec.extractLsb'_and, hmask, BitVec.and_allOnes]

/-- A word that matches a row decodes to an operation of it: the mask keeps the opcode and the bits that the row's
format marks 0. -/
theorem decode_of_matches {w : OpWord} (j : Instr) (h : w &&& (opcodeRow j).mask = (opcodeRow j).pattern) :
    ∃ i, decode w = .ok i ∧ i.mnemonic = j.mnemonic := by
  cases j <;> simp only [opcodeRow] at h <;> have hop : opcodeOf w = _ := field_of_matches h 12 4 rfl
  case nop | wtick | req | rdkey | rdrc =>
    simp [decode, hop, formatZ, whereZero, field_of_matches h 0 12 rfl, Instr.mnemonic]
  case edge =>
    simp [decode, hop, formatE, whereZero, field_of_matches h 11 1 rfl, field_of_matches h 3 5 rfl,
      Instr.mnemonic]
  case step => simp [decode, hop, formatS, whereZero, field_of_matches h 3 9 rfl, Instr.mnemonic]
  case rel =>
    simp [decode, hop, formatV, whereZero, field_of_matches h 9 3 rfl, field_of_matches h 3 1 rfl,
      Instr.mnemonic]
  case kstate => simp [decode, hop, formatK, whereZero, field_of_matches h 8 4 rfl, Instr.mnemonic]
  case supp | alt => simp [decode, hop, formatI, whereZero, field_of_matches h 5 7 rfl, Instr.mnemonic]
  case sedge | stick =>
    simp [decode, hop, formatL, whereZero, field_of_matches h 9 3 rfl, field_of_matches h 1 7 rfl,
      Instr.mnemonic]
  case ptick =>
    simp [decode, hop, formatP, whereZero, field_of_matches h 9 3 rfl, field_of_matches h 0 4 rfl,
      Instr.mnemonic]

/-- A word that decodes matches the row of its operation. -/
theorem matches_of_decode {w : OpWord} {i : Instr} (h : decode w = .ok i) :
    w &&& (opcodeRow i).mask = (opcodeRow i).pattern := by
  have hmatch := (encodeMatchesRow i).1
  rwa [encode_decode h] at hmatch

/-- A word matches a row of the map exactly where it decodes to an operation of that row. -/
theorem matches_iff_decode {w : OpWord} {row : OpcodeRow} (hrow : row ∈ opcodeMap) :
    w &&& row.mask = row.pattern ↔ ∃ i, decode w = .ok i ∧ i.mnemonic = row.mnemonic := by
  constructor
  · obtain ⟨j, rfl⟩ := exists_opcodeRow hrow
    rw [(encodeMatchesRow j).2]
    exact decode_of_matches j
  · rintro ⟨i, hi, hname⟩
    rw [← (encodeMatchesRow i).2] at hname
    rw [← opcodeMap_mnemonic_inj _ (opcodeRow_mem_opcodeMap i) _ hrow hname]
    exact matches_of_decode hi

end Sys2Proof
end

section
/-! PROOF LAYER. Which words are refused (30_encoding.md R96), which operations complete, and which return a
result (R93). -/

namespace Sys2Proof.Machine

open Sys2Proof.Claims

/-! Illegal words -/

/-- A word is illegal where it does not decode, or decodes to an operation with an operand out of range. -/
theorem illegal_iff {c : Config} {w : OpWord} :
    Illegal c w ↔ (∃ e, decode w = .error e) ∨ ∃ i, decode w = .ok i ∧ i.wf c = false := by
  refine or_congr_left ⟨fun hnone => ?_, fun ⟨e, he⟩ row hrow hmatch => ?_⟩
  · cases hw : decode w with
    | error e => exact ⟨e, rfl⟩
    | ok i => exact absurd (matches_of_decode hw) (hnone _ (opcodeRow_mem_opcodeMap i))
  · obtain ⟨i, hi, -⟩ := (matches_iff_decode hrow).1 hmatch
    rw [he] at hi
    cases hi

/-! Operands out of range -/

theorem exec_of_not_wf {i : Instr} {s : State} (h : i.wf s.cfg = false) :
    exec i s = .refused .illegalOperand := by
  cases i with
  | nop | step | wtick | req | rdkey | rdrc | kstate | supp | alt => cases h
  | edge => exact if_neg (rowInRange_iff.not.2 (of_decide_eq_false h))
  | rel | ptick => exact if_neg (rowsInRange_iff.not.2 (of_decide_eq_false h))
  | sedge | stick => exact if_neg (instanceInRange_iff.not.2 (of_decide_eq_false h))

/-! Operands in range: the guard of each operation that has one is passed -/

theorem execEdge_of_wf {r : BitVec 3} {sm : Samples} {s : State} (h : (Instr.edge r sm).wf s.cfg = true) :
    execEdge r sm s =
      if irqEn s then scanStep sm (edgeEntry (r.setWidth 8) s.quiet) else .next s.quiet :=
  if_pos (rowInRange_iff.2 (of_decide_eq_true h))

theorem execRel_of_wf {rows : BitVec 5} {sm : Samples} {s : State} (h : (Instr.rel rows sm).wf s.cfg = true) :
    execRel rows sm s =
      if s.arb.owner = .externalPeer then
        if s.cfg.polled = false ∧ s.scan.phase = .idle then
          lostKeypressPoll rows sm (setOwner .scanner (signalPeer s.quiet))
        else .next (setOwner .scanner (signalPeer s.quiet))
      else .next (raiseArbMisuse (signalPeer s.quiet)) := by
  rw [execRel, if_pos (rowsInRange_iff.2 (of_decide_eq_true h))]
  cases ho : s.arb.owner <;> simp

theorem execPtick_of_wf {rows : BitVec 5} {s : State} (h : (Instr.ptick rows).wf s.cfg = true) :
    execPtick rows s =
      if s.cfg.polled && s.arb.owner == .scanner then
        andThen (pollRows rows s.poll.col.toNat (List.range s.cfg.numRows) s.quiet)
          fun t => .next (advancePollColumn t)
      else .next s.quiet :=
  if_pos (rowsInRange_iff.2 (of_decide_eq_true h))

/-- SEDGE stops only where the standalone key has no state. -/
theorem execSedge_of_wf {n : BitVec 1} {lvl : Bool} {s : State} (h : (Instr.sedge n lvl).wf s.cfg = true) :
    execSedge n lvl s = .fault (.noStandaloneKey n.toNat) ∧ s.skeys[n.toNat]? = none ∨
      ∃ t, execSedge n lvl s = .next t := by
  rw [execSedge, if_pos (instanceInRange_iff.2 (of_decide_eq_true h))]
  cases s.skeys[n.toNat]? with
  | none => exact .inl ⟨rfl, rfl⟩
  | some k =>
    dsimp only
    split <;> exact .inr ⟨_, rfl⟩

/-- STICK stops only where the standalone key has no state or no configuration. -/
theorem execStick_of_wf {n : BitVec 1} {lvl : Bool} {s : State} (h : (Instr.stick n lvl).wf s.cfg = true) :
    execStick n lvl s = .fault (.noStandaloneKey n.toNat) ∧
        (s.skeys[n.toNat]? = none ∨ s.cfg.skeys[n.toNat]? = none) ∨
      ∃ t, execStick n lvl s = .next t := by
  rw [execStick, if_pos (instanceInRange_iff.2 (of_decide_eq_true h))]
  cases s.skeys[n.toNat]? with
  | none => exact .inl ⟨rfl, .inl rfl⟩
  | some k =>
    cases s.cfg.skeys[n.toNat]? with
    | none => exact .inl ⟨rfl, .inr rfl⟩
    | some kc =>
      dsimp only
      split
      · exact .inr ⟨_, rfl⟩
      · split <;> exact .inr ⟨_, rfl⟩

/-! Which operations and words are refused -/

theorem lostKeypressPoll_not_refused (rows : BitVec 5) (sm : Samples) (s : State) (e : Refusal) :
    lostKeypressPoll rows sm s ≠ .refused e := by
  unfold lostKeypressPoll
  split
  · exact nofun
  · exact scanStep_not_refused _ _ e

/-- An operation with its operands in range is never refused, in whatever state (30_encoding.md R96). -/
theorem exec_not_refused {i : Instr} {s : State} (h : i.wf s.cfg = true) (e : Refusal) :
    exec i s ≠ .refused e := by
  cases i with
  | nop | kstate | supp | alt => exact nofun
  | edge r sm =>
    rw [exec, execEdge_of_wf h]
    split
    · exact scanStep_not_refused _ _ e
    · exact nofun
  | step sm =>
    rw [exec, execStep]
    split
    · exact scanStep_not_refused _ _ e
    · exact nofun
  | wtick => rw [exec, execWtick_eq]; exact nofun
  | req => rw [exec, execReq_eq]; exact nofun
  | rel rows sm =>
    rw [exec, execRel_of_wf h]
    split
    · split
      · exact lostKeypressPoll_not_refused _ _ _ e
      · exact nofun
    · exact nofun
  | rdkey =>
    rw [exec, execRdkey]
    split
    · split <;> exact nofun
    all_goals exact nofun
  | rdrc =>
    rw [exec, execRdrc]
    split <;> exact nofun
  | sedge n lvl => obtain ⟨hf, -⟩ | ⟨t, ht⟩ := execSedge_of_wf h <;> simp [exec, *]
  | stick n lvl => obtain ⟨hf, -⟩ | ⟨t, ht⟩ := execStick_of_wf h <;> simp [exec, *]
  | ptick rows =>
    rw [exec, execPtick_of_wf h]
    split
    · intro hr
      cases hp : pollRows rows s.poll.col.toNat (List.range s.cfg.numRows) s.quiet with
      | refused f => exact pollRows_not_refused _ _ _ _ f hp
      | _ => rw [hp] at hr; cases hr
    · exact nofun

theorem exec_refused_iff {i : Instr} {s : State} : (∃ why, exec i s = .refused why) ↔ i.wf s.cfg = false := by
  refine ⟨fun ⟨why, hwhy⟩ => ?_, fun h => ⟨_, exec_of_not_wf h⟩⟩
  rw [← Bool.not_eq_true]
  exact fun hwf => exec_not_refused hwf why hwhy

/-- A step that fetches a word, in reset or out of it, refuses exactly an illegal one (R96; log entry 9). -/
theorem step_refused_iff_illegal {s u : State} {w : OpWord} (hfetch : fetch s = takeWord w u) :
    (∃ why, step s = .refused why) ↔ Illegal u.cfg w := by
  rw [illegal_iff]
  cases hrst : u.rst with
  | false =>
    rw [takeWord_of_running hrst] at hfetch
    cases hw : decode w with
    | error e => simp [step, hfetch, hw]
    | ok i => simpa [step_operation hfetch hw] using exec_refused_iff
  | true =>
    rw [takeWord, if_pos hrst] at hfetch
    obtain ⟨htake, i, hw, hwf⟩ | ⟨⟨r, htake⟩, hillegal⟩ := takeInReset_cases w u
    · simp [step_settled (hfetch.trans htake), hw, hwf]
    · simp [step_outside (hfetch.trans htake), hillegal]

/-- A query carries its port as it stands, so it comes to what that word comes to (log entry 12). -/
theorem accept_query (s : State) (op : BitVec 4) (arg : BitVec 12) :
    accept s (.strobe (.query op arg)) = takeWord (op ++ arg) s := rfl

/-! Completion (20_memory.md R65: no index out of range is reached) -/

/-- A scan step completes wherever its cursor names an entry of `KEYMAP`. -/
theorem scanStep_completes (sm : Samples) {s : State}
    (hk : ∃ k, keymapAt s.cfg s.scan.currentRow.toNat s.scan.currentColumn.toNat = some k) :
    ∃ t, scanStep sm s = .next t := by
  cases hp : s.scan.phase with
  | identifyButton =>
    simp only [scanStep, hp]
    cases hsm : allAsserted sm with
    | true =>
      obtain ⟨k, hk⟩ := hk
      rw [columnStep, if_pos hsm]
      exact ⟨_, confirmPress_eq_next.2 ⟨k, hk, rfl⟩⟩
    | false => exact ⟨_, columnStep_of_not_asserted hsm⟩
  | idle | releasePending | checkForKeyChange | releaseDetected =>
    simp only [scanStep, hp]
    exact ⟨_, rfl⟩

/-- The cursor of a scan that starts under the invariant names one (10_state.md R48 item 3). -/
theorem ScanStart.completes {s u : State} (h : ScanStart s u) (hwf : s.cfg.wf = true) (sm : Samples) :
    ∃ t, scanStep sm u = .next t := by
  refine scanStep_completes sm ?_
  rw [h.cfg]
  exact Config.wf_keymapAt hwf h.scan.cursorRow h.scan.cursorColumn

theorem exists_cellAt {c : Config} {p : PolledState} (hp : PollInvariant c p) {r k : Nat} (hr : r < c.numRows)
    (hk : k < c.numCols) : ∃ x, cellAt p r k = some x := by
  rw [← hp.cellRows] at hr
  have hcols := hp.cellCols _ (List.getElem_mem hr)
  exact ⟨p.cells[r][k], by simp [cellAt, hr, hcols, hk]⟩

/-- One row of a poll completes where the cell is one of the matrix. -/
theorem pollCell_completes (a : Bool) {r c : Nat} {s : State} (hwf : s.cfg.wf = true)
    (hp : PollInvariant s.cfg s.poll) (hr : r < s.cfg.numRows) (hc : c < s.cfg.numCols) :
    ∃ t, pollCell a r c s = .next t := by
  obtain ⟨x, hx⟩ := exists_cellAt hp hr hc
  obtain ⟨k, hk⟩ := Config.wf_keymapAt hwf hr hc
  by_cases ha : a = x.level
  · exact ⟨_, pollCell_eq_next.2 ⟨x, hx, .inl ⟨ha, rfl⟩⟩⟩
  · by_cases hd : s.cfg.debounceTicks ≤ x.cnt + 1#16
    · exact ⟨_, pollCell_eq_next.2 ⟨x, hx, .inr (.inl ⟨ha, hd, k, hk, rfl⟩)⟩⟩
    · exact ⟨_, pollCell_eq_next.2 ⟨x, hx, .inr (.inr ⟨ha, hd, rfl⟩)⟩⟩

theorem pollRows_completes {rows : BitVec 5} {c : Nat} {rs : List Nat} {s : State} (hwf : s.cfg.wf = true)
    (hpolled : s.cfg.polled = true) (hrs : ∀ r ∈ rs, r < s.cfg.numRows) (hc : c < s.cfg.numCols)
    (hp : PollInvariant s.cfg s.poll) (hl : LatchInvariant s.cfg s.latch) :
    ∃ t, pollRows rows c rs s = .next t := by
  induction rs generalizing s with
  | nil => exact ⟨s, rfl⟩
  | cons r rs ih =>
    have hr := hrs r (by simp)
    obtain ⟨u, hu⟩ := pollCell_completes (rows.getLsbD r) hwf hp hr hc
    obtain ⟨hpu, hlu⟩ := pollCell_keeps hu hwf hpolled hr hc hp hl
    have hcfg : u.cfg = s.cfg := by rw [pollCell_frame hu]
    rw [← hcfg] at hwf hpolled hrs hc hpu hlu
    obtain ⟨t, ht⟩ := ih hwf hpolled (fun q hq => hrs q (by simp [hq])) hc hpu hlu
    exact ⟨t, andThen_eq_next.2 ⟨u, hu, ht⟩⟩

theorem execEdge_completes {r : BitVec 3} {sm : Samples} {s : State} (hi : Invariant s)
    (hwf : (Instr.edge r sm).wf s.cfg = true) : ∃ t, execEdge r sm s = .next t := by
  rw [execEdge_of_wf hwf]
  split
  · rename_i hirq
    obtain ⟨hpolled, hidle, -⟩ := irqEn_iff.1 hirq
    have hrow : (r.setWidth 8).toNat < s.cfg.numRows := by
      rw [BitVec.toNat_setWidth_of_le (by decide)]
      exact of_decide_eq_true hwf
    exact (scanStart_edgeEntry hi hpolled hidle hrow s.arb false).completes hi.configLegal sm
  · exact ⟨_, rfl⟩

theorem execStep_completes (sm : Samples) {s : State} (hi : Invariant s) : ∃ t, execStep sm s = .next t := by
  unfold execStep
  split
  · exact scanStep_completes sm (Config.wf_keymapAt hi.configLegal hi.cursorRow hi.cursorColumn)
  · exact ⟨_, rfl⟩

theorem execRel_completes {rows : BitVec 5} {sm : Samples} {s : State} (hi : Invariant s)
    (hwf : (Instr.rel rows sm).wf s.cfg = true) : ∃ t, execRel rows sm s = .next t := by
  rw [execRel_of_wf hwf]
  split
  · split
    · rename_i hguard
      obtain ⟨hpolled, hidle⟩ := hguard
      unfold lostKeypressPoll
      split
      · exact ⟨_, rfl⟩
      · rename_i r hr
        have hlt := lowestRow_lt (rowsInRange_iff.2 (of_decide_eq_true hwf)) hr
        have hrow : (BitVec.ofNat 8 r).toNat < s.cfg.numRows := by rwa [toNat_ofNat_row hi.configLegal hlt]
        exact (scanStart_edgeEntry hi hpolled hidle hrow _ true).completes hi.configLegal sm
    · exact ⟨_, rfl⟩
  · exact ⟨_, rfl⟩

/-- A captured cell has its entry of `KEYMAP` (R48 item 8). -/
theorem execRdkey_completes {s : State} (hi : Invariant s) : ∃ t, execRdkey s = .next t := by
  by_cases hlatch : s.latch.state = .capturedPending
  · obtain ⟨hrow, hcol⟩ := hi.latchCell hlatch
    obtain ⟨k, hk⟩ := Config.wf_keymapAt hi.configLegal hrow hcol
    exact ⟨_, by rw [execRdkey, hlatch]; dsimp only; rw [hk]⟩
  · exact ⟨_, execRdkey_none hlatch⟩

theorem execSedge_completes {n : BitVec 1} {lvl : Bool} {s : State} (hi : Invariant s)
    (hwf : (Instr.sedge n lvl).wf s.cfg = true) : ∃ t, execSedge n lvl s = .next t := by
  refine (execSedge_of_wf hwf).resolve_left fun ⟨_, hnone⟩ => ?_
  have hn : n.toNat < s.cfg.nSkey := of_decide_eq_true hwf
  exact absurd (List.getElem?_eq_none_iff.1 hnone) (by rw [hi.keyCount]; omega)

theorem execStick_completes {n : BitVec 1} {lvl : Bool} {s : State} (hi : Invariant s)
    (hwf : (Instr.stick n lvl).wf s.cfg = true) : ∃ t, execStick n lvl s = .next t := by
  refine (execStick_of_wf hwf).resolve_left fun ⟨_, hnone⟩ => ?_
  have hn : n.toNat < s.cfg.nSkey := of_decide_eq_true hwf
  rcases hnone with hnone | hnone
  · exact absurd (List.getElem?_eq_none_iff.1 hnone) (by rw [hi.keyCount]; omega)
  · exact absurd (List.getElem?_eq_none_iff.1 hnone) (Nat.not_le.2 hn)

theorem execPtick_completes {rows : BitVec 5} {s : State} (hi : Invariant s)
    (hwf : (Instr.ptick rows).wf s.cfg = true) : ∃ t, execPtick rows s = .next t := by
  rw [execPtick_of_wf hwf]
  split
  · rename_i hguard
    obtain ⟨hpolled, -⟩ := Bool.and_eq_true_iff.1 hguard
    obtain ⟨t, ht⟩ := pollRows_completes (s := s.quiet) (rows := rows) (rs := List.range s.cfg.numRows)
      hi.configLegal hpolled (fun r hr => List.mem_range.1 hr) hi.pollColumn hi.poll hi.latch
    exact ⟨_, andThen_eq_next.2 ⟨t, ht, rfl⟩⟩
  · exact ⟨_, rfl⟩

/-- Every operation with its operands in range completes where the invariant holds. -/
theorem exec_completes {i : Instr} {s : State} (hi : Invariant s) (hwf : i.wf s.cfg = true) :
    ∃ t, exec i s = .next t := by
  cases i with
  | nop | kstate | supp | alt => exact ⟨_, rfl⟩
  | edge => exact execEdge_completes hi hwf
  | step sm => exact execStep_completes sm hi
  | wtick => exact ⟨_, execWtick_eq s⟩
  | req => exact ⟨_, execReq_eq s⟩
  | rel => exact execRel_completes hi hwf
  | rdkey => exact execRdkey_completes hi
  | rdrc =>
    rw [exec, execRdrc]
    split <;> exact ⟨_, rfl⟩
  | sedge => exact execSedge_completes hi hwf
  | stick => exact execStick_completes hi hwf
  | ptick => exact execPtick_completes hi hwf

/-! Results (30_encoding.md R93) -/

/-- An operation leaves a result word exactly where it is a query. -/
theorem exec_result {i : Instr} {s t : State} (h : exec i s = .next t) : t.out.res.isSome = isQuery i := by
  cases i with
  | nop | kstate | supp | alt => cases h; rfl
  | edge => rw [execEdge_frame h]; rfl
  | step => rw [execStep_frame h]; rfl
  | wtick => rw [execWtick_frame h]; rfl
  | req => rw [← Host.Outcome.next.inj ((execReq_eq s).symm.trans h)]; rfl
  | rel => rw [execRel_frame h]; rfl
  | rdkey => exact have ⟨_, hres, _⟩ := execRdkey_frame h; hres
  | rdrc => exact have ⟨_, hres, _⟩ := execRdrc_frame h; hres
  | sedge n lvl => rw [(execSedge_frame (lvl := lvl) h).1]; rfl
  | stick => rw [(execStick_frame h).1]; rfl
  | ptick => rw [execPtick_frame h]; rfl

end Sys2Proof.Machine
end

section
/-! Certificates of the statements about the operation word: decoding, legality, completion and results. -/

namespace Sys2Proof.Proofs

open Sys2Proof.Machine Sys2Proof.Claims

/-- Settles O1, format by format over the operands of each. -/
theorem decodeOfEncode : Obligations.DecodeOfEncode := decode_encode

/-- Settles O2, opcode by opcode: what a format accepts is the word its table writes. -/
theorem encodeOfDecode : Obligations.EncodeOfDecode := fun _ _ => encode_decode

/-- Settles O3: a row's mask keeps the opcode and the reserved bits, and a word that decodes is the word of an
operation, which matches its row. -/
theorem decodeFollowsTheOpcodeMap : Obligations.DecodeFollowsTheOpcodeMap :=
  fun _ _ hrow => matches_iff_decode hrow

/-- Settles O4: each word is the encoding of its operation. -/
theorem decodeOfWrittenWords : Obligations.DecodeOfWrittenWords :=
  ⟨decode_encode (.edge 2 ⟨true, true, true⟩), decode_encode (.step ⟨true, false, true⟩),
    decode_encode (.rel 0b00100 ⟨true, true, true⟩), decode_encode (.kstate 0x32),
    decode_encode (.sedge 1 true), decode_encode (.ptick 0b00010)⟩

/-- Settles O5: a word and a query both come to taking the word, which refuses exactly where it is illegal. -/
theorem exactlyIllegalWordsAreRefused : Obligations.ExactlyIllegalWordsAreRefused := by
  intro s w rest _ hin
  refine step_refused_iff_illegal (u := { s with inputs := rest }) ?_
  obtain hin | ⟨op, arg, hin, rfl⟩ := hin
  · exact fetch_cons hin
  · exact (fetch_cons hin).trans (accept_query _ op arg)

/-- Settles O15, operation by operation: every index an operation reads names an entry. -/
theorem everyLegalOperationCompletes : Obligations.EveryLegalOperationCompletes :=
  fun _ _ _ hi hwf => exec_completes hi hwf

/-- Settles O47 from what each operation writes to the outputs. -/
theorem onlyQueriesReturnAResult : Obligations.OnlyQueriesReturnAResult :=
  fun _ _ _ _ h => exec_result h

end Sys2Proof.Proofs
end

section
/-! PROOF LAYER. The scan state machine: the whole state after EDGE, STEP and a scan step, one equation for each
phase and outcome (40_scan_state_machine.md R121 to R129). -/

namespace Sys2Proof.Machine

open Sys2Proof.Claims

/-! Where EDGE and STEP are ignored, and where they run a scan step -/

theorem ne_scanner_iff {o : Owner} : ¬ o = .scanner ↔ o = .externalPeer := by cases o <;> decide

theorem irqEn_eq_false_iff {s : State} :
    irqEn s = false ↔ s.cfg.polled = true ∨ s.scan.phase ≠ .idle ∨ s.arb.owner = .externalPeer := by
  rw [← Bool.not_eq_true, irqEn_iff, not_and_or, not_and_or, Bool.not_eq_false, ne_scanner_iff]

theorem timerArmed_eq_false_iff {s : State} :
    timerArmed s = false ↔ s.cfg.polled = true ∨ s.scan.phase = .idle ∨ s.arb.owner = .externalPeer := by
  rw [← Bool.not_eq_true, timerArmed_iff, not_and_or, not_and_or, Bool.not_eq_false, not_ne_iff, ne_scanner_iff]

theorem exec_edge_of_masked {r : BitVec 3} {s : State} (sm : Samples) (hr : r.toNat < s.cfg.numRows)
    (hmasked : irqEn s = false) : exec (.edge r sm) s = .next s.quiet := by
  rw [exec, execEdge_of_wf (decide_eq_true hr), hmasked]
  rfl

theorem exec_step_of_disarmed {s : State} (sm : Samples) (hdisarmed : timerArmed s = false) :
    exec (.step sm) s = .next s.quiet := by
  rw [exec, execStep, hdisarmed]
  rfl

theorem exec_edge_of_armed {r : BitVec 3} {s : State} (sm : Samples) (hr : r.toNat < s.cfg.numRows)
    (h : ArmedIn .idle s) : exec (.edge r sm) s = scanStep sm (edgeEntry (r.setWidth 8) s.quiet) := by
  obtain ⟨⟨hpolled, howner⟩, hp⟩ := h
  rw [exec, execEdge_of_wf (decide_eq_true hr), if_pos (irqEn_iff.2 ⟨hpolled, hp, howner⟩)]

theorem timerArmed_of_armedIn {p : Phase} {s : State} (h : ArmedIn p s) (hp : p ≠ .idle) :
    timerArmed s = true := by
  obtain ⟨⟨hpolled, howner⟩, rfl⟩ := h
  exact timerArmed_iff.2 ⟨hpolled, hp, howner⟩

theorem exec_step_of_armed {p : Phase} {s : State} (sm : Samples) (h : ArmedIn p s) (hp : p ≠ .idle) :
    exec (.step sm) s = scanStep sm s.quiet := by
  rw [exec, execStep, if_pos (timerArmed_of_armedIn h hp)]

/-! The scan step in `IdentifyButton`, where no key is active (10_state.md R48 item 2) -/

/-- No key is active, and no code is stored for one (10_state.md R24). -/
def NoKey (s : State) : Prop := s.scan.activeValid = false ∧ s.scan.activeCode = 0#8

theorem Invariant.noKey {s : State} (hi : Invariant s)
    (hp : s.scan.phase = .idle ∨ s.scan.phase = .identifyButton) : NoKey s := by
  have hvalid : s.scan.activeValid = false := by
    rw [← Bool.not_eq_true, hi.activePhase]
    rcases hp with hp | hp <;> simp [hp]
  exact ⟨hvalid, hi.noActiveCode hvalid⟩

/-- The end of a cycle that has found no key. -/
theorem releaseDetectedAction_of_noKey {s : State} (h : NoKey s) :
    releaseDetectedAction s =
      { s with scan := { s.scan with phase := .idle }, latch := windowCleared s.latch } := by
  obtain ⟨hvalid, hcode⟩ := h
  simp [releaseDetectedAction_eq, windowCleared, hvalid, hcode]

theorem scanStep_identifyButton {s : State} (sm : Samples) (hp : s.scan.phase = .identifyButton) :
    scanStep sm s = columnStep sm s := by simp only [scanStep, hp]

/-- Three asserted samples confirm the press at the cursor (R121, R122). -/
theorem scanStep_asserted {s : State} {k : KeyCode} (hp : s.scan.phase = .identifyButton) (hout : s.out = {})
    (hk : keymapAt s.cfg s.scan.currentRow.toNat s.scan.currentColumn.toNat = some k) :
    scanStep ⟨true, true, true⟩ s = .next (afterPress s s.scan.currentRow s.scan.currentColumn k) := by
  rw [scanStep_identifyButton _ hp, columnStep, if_pos (allAsserted_iff.2 rfl)]
  exact confirmPress_eq_next.2 ⟨k, hk, by simp [afterPress, captured, hout]⟩

/-- Any other samples fail the column: the next one, or from column 0 the end of the cycle (R121, R126). -/
theorem scanStep_not_asserted {sm : Samples} {s : State} (hp : s.scan.phase = .identifyButton)
    (hsm : sm ≠ ⟨true, true, true⟩) (hkey : NoKey s) :
    scanStep sm s = .next
      (if s.scan.currentColumn = 0#8 then
        { s with scan := { s.scan with phase := .idle }, latch := windowCleared s.latch }
      else { s with scan := { s.scan with currentColumn := s.scan.currentColumn - 1#8 } }) := by
  rw [scanStep_identifyButton sm hp, columnStep_of_not_asserted (allAsserted_eq_false.2 hsm),
    releaseDetectedAction_of_noKey hkey]

/-! EDGE from `Idle` -/

/-- `C − 1` is column 0 exactly where there is one column. -/
theorem lastColumn_eq_zero_iff {c : Config} (hwf : c.wf = true) : lastColumn c = 0#8 ↔ ¬ 1 < c.numCols := by
  have hpos := numCols_pos hwf
  rw [← BitVec.toNat_inj, lastColumn_toNat hwf, BitVec.toNat_ofNat]
  omega

theorem lastColumn_sub_one {c : Config} (hwf : c.wf = true) (h : 1 < c.numCols) :
    lastColumn c - 1#8 = BitVec.ofNat 8 (c.numCols - 2) := by
  have hle := numCols_le hwf
  rw [lastColumn]
  bv_omega

theorem toNat_setWidth_row (r : BitVec 3) : (r.setWidth 8).toNat = r.toNat :=
  BitVec.toNat_setWidth_of_le (by decide)

theorem exec_edge_asserted {r : BitVec 3} {s : State} (hi : Invariant s) (hr : r.toNat < s.cfg.numRows)
    (h : ArmedIn .idle s) :
    ∃ k, keymapAt s.cfg r.toNat (s.cfg.numCols - 1) = some k ∧
      exec (.edge r ⟨true, true, true⟩) s = .next (afterPress s (r.setWidth 8) (lastColumn s.cfg) k) := by
  have hcol := lastColumn_lt hi.configLegal
  rw [lastColumn_toNat hi.configLegal] at hcol
  obtain ⟨k, hk⟩ := Config.wf_keymapAt hi.configLegal hr hcol
  refine ⟨k, hk, ?_⟩
  rw [exec_edge_of_armed _ hr h]
  refine scanStep_asserted rfl rfl ?_
  rwa [edgeEntry_scan_currentRow, edgeEntry_scan_currentColumn, toNat_setWidth_row, quiet_cfg,
    lastColumn_toNat hi.configLegal]

theorem exec_edge_not_asserted {r : BitVec 3} {sm : Samples} {s : State} (hi : Invariant s)
    (hr : r.toNat < s.cfg.numRows) (h : ArmedIn .idle s) (hsm : sm ≠ ⟨true, true, true⟩) :
    exec (.edge r sm) s = .next
      (if 1 < s.cfg.numCols then
        { s with
          scan := { s.scan with phase := .identifyButton, currentRow := r.setWidth 8,
                                currentColumn := BitVec.ofNat 8 (s.cfg.numCols - 2) }
          out := {} }
      else
        { s with
          scan := { s.scan with currentRow := r.setWidth 8, currentColumn := 0#8 }
          latch := windowCleared s.latch
          out := {} }) := by
  have hp := h.2
  have hkey : NoKey (edgeEntry (r.setWidth 8) s.quiet) := hi.noKey (.inl hp)
  rw [exec_edge_of_armed sm hr h, scanStep_not_asserted rfl hsm hkey]
  by_cases hcols : 1 < s.cfg.numCols
  · have hlast : lastColumn s.cfg ≠ 0#8 := (lastColumn_eq_zero_iff hi.configLegal).not_left.2 hcols
    simp [hcols, hlast, lastColumn_sub_one hi.configLegal hcols, edgeEntry, State.quiet]
  · have hlast : lastColumn s.cfg = 0#8 := (lastColumn_eq_zero_iff hi.configLegal).2 hcols
    simp [hcols, hlast, hp, edgeEntry, State.quiet]

/-! STEP, phase by phase -/

theorem exec_step_asserted_of_keymapAt {s : State} {k : KeyCode} (h : ArmedIn .identifyButton s)
    (hk : keymapAt s.cfg s.scan.currentRow.toNat s.scan.currentColumn.toNat = some k) :
    exec (.step ⟨true, true, true⟩) s = .next (afterPress s s.scan.currentRow s.scan.currentColumn k) :=
  (exec_step_of_armed _ h (by decide)).trans (scanStep_asserted h.2 rfl hk)

theorem exec_step_asserted {s : State} (hi : Invariant s) (h : ArmedIn .identifyButton s) :
    ∃ k, keymapAt s.cfg s.scan.currentRow.toNat s.scan.currentColumn.toNat = some k ∧
      exec (.step ⟨true, true, true⟩) s =
        .next (afterPress s s.scan.currentRow s.scan.currentColumn k) := by
  obtain ⟨k, hk⟩ := Config.wf_keymapAt hi.configLegal hi.cursorRow hi.cursorColumn
  exact ⟨k, hk, exec_step_asserted_of_keymapAt h hk⟩

theorem exec_step_not_asserted {sm : Samples} {s : State} (h : ArmedIn .identifyButton s) (hkey : NoKey s)
    (hsm : sm ≠ ⟨true, true, true⟩) :
    exec (.step sm) s = .next
      (if s.scan.currentColumn = 0#8 then
        { s with scan := { s.scan with phase := .idle }, latch := windowCleared s.latch, out := {} }
      else { s with scan := { s.scan with currentColumn := s.scan.currentColumn - 1#8 }, out := {} }) :=
  (exec_step_of_armed sm h (by decide)).trans (scanStep_not_asserted h.2 hsm hkey)

theorem exec_step_releasePending {s : State} (sm : Samples) (h : ArmedIn .releasePending s) :
    exec (.step sm) s = .next
      { s with
        scan :=
          if sm.s0 then { s.scan with releaseStableCount := 0#16 }
          else { s.scan with
            releaseStableCount := s.scan.releaseStableCount + 1#16
            phase := if s.cfg.debounceTicks ≤ s.scan.releaseStableCount + 1#16 then .checkForKeyChange
                     else .releasePending }
        out := {} } := by
  have hp := h.2
  rw [exec_step_of_armed sm h (by decide)]
  simp only [scanStep, quiet_scan, hp, releasePendingStep, quiet_cfg]
  cases sm.s0 <;> rfl

theorem exec_step_checkForKeyChange {s : State} (sm : Samples) (h : ArmedIn .checkForKeyChange s)
    (hkey : s.scan.activeValid = true) :
    exec (.step sm) s = .next
      (if sm.s0 then
        { s with
          scan := { s.scan with activeValid := false, activeCode := 0#8, phase := .identifyButton,
                                currentColumn := lastColumn s.cfg }
          out := { events := [⟨s.scan.activeCode, false⟩] } }
      else
        { s with
          scan := { s.scan with activeValid := false, activeCode := 0#8, phase := .idle }
          latch := windowCleared s.latch
          out := { events := [⟨s.scan.activeCode, false⟩] } }) := by
  have hp := h.2
  rw [exec_step_of_armed sm h (by decide)]
  simp only [scanStep, quiet_scan, hp, keyChangeStep_eq, hkey]
  cases sm.s0 <;> simp [windowCleared, State.quiet]

end Sys2Proof.Machine
end

section
/-! PROOF LAYER. Runs of STEPs through the phases of a scan cycle, with the matrix events they report
(40_scan_state_machine.md R135, R136). -/

namespace Sys2Proof.Machine

open Sys2Proof.Claims

/-- The operations complete, from `s` to `t`, and the matrix scanner reports `es`. -/
def RunsTo (is : List Instr) (s : State) (es : List Event) (t : State) : Prop :=
  ∃ l, runOps is s = some (t, l) ∧ matrixEvents l = es

theorem RunsTo.nil (s : State) : RunsTo [] s [] s := ⟨[], rfl, rfl⟩

theorem RunsTo.cons {i : Instr} {is : List Instr} {s u t : State} {es : List Event} (h : exec i s = .next u)
    (hmatrix : isAnyStick i = false) (hrun : RunsTo is u es t) :
    RunsTo (i :: is) s (u.out.events ++ es) t := by
  obtain ⟨l, hl, rfl⟩ := hrun
  refine ⟨(i, u.out.events) :: l, ?_, ?_⟩
  · simp only [runOps, h, hl, Option.map_some]
  · rw [matrixEvents_cons, hmatrix, if_neg Bool.false_ne_true]

theorem RunsTo.single {i : Instr} {s t : State} (h : exec i s = .next t) (hmatrix : isAnyStick i = false) :
    RunsTo [i] s t.out.events t := by
  simpa using RunsTo.cons h hmatrix (.nil t)

/-- One run after another. -/
theorem RunsTo.append {is js : List Instr} {s u t : State} {es fs : List Event} (h : RunsTo is s es u)
    (h' : RunsTo js u fs t) : RunsTo (is ++ js) s (es ++ fs) t := by
  induction is generalizing s es with
  | nil =>
    obtain ⟨l, hl, rfl⟩ := h
    cases hl
    exact h'
  | cons i is ih =>
    obtain ⟨l, hl, rfl⟩ := h
    obtain ⟨v, l', hv, hrun, rfl⟩ := runOps_cons hl
    obtain ⟨m, hm, hevents⟩ := ih ⟨l', hrun, rfl⟩
    refine ⟨(i, v.out.events) :: m, ?_, ?_⟩
    · simp only [List.cons_append, runOps, hv, hm, Option.map_some]
    · rw [matrixEvents_cons, matrixEvents_cons, hevents, List.append_assoc]

theorem RunsTo.append_steps {sms sms' : List Samples} {s u t : State} {es fs : List Event}
    (h : RunsTo (sms.map .step) s es u) (h' : RunsTo (sms'.map .step) u fs t) :
    RunsTo ((sms ++ sms').map .step) s (es ++ fs) t :=
  List.map_append ▸ h.append h'

/-! Runs within a phase -/

/-- The state with the cursor at column `col` and the outputs `o`. -/
def withCursor (col : U8) (o : Output) (s : State) : State :=
  { s with scan := { s.scan with currentColumn := col }, out := o }

/-- The state with the release count at `n` and the outputs `o`. -/
def withCount (n : U16) (o : Output) (s : State) : State :=
  { s with scan := { s.scan with releaseStableCount := n }, out := o }

/-- A column step that fails above column 0 moves the cursor down (R121). -/
theorem exec_step_next_column {sm : Samples} {s : State} (h : ArmedIn .identifyButton s) (hkey : NoKey s)
    (hsm : sm ≠ ⟨true, true, true⟩) (hcol : s.scan.currentColumn ≠ 0#8) :
    exec (.step sm) s = .next (withCursor (s.scan.currentColumn - 1#8) {} s) :=
  (exec_step_not_asserted h hkey hsm).trans (by rw [if_neg hcol]; rfl)

/-- A column step that fails column 0 ends the cycle (R121, R126). -/
theorem exec_step_column_zero {sm : Samples} {s : State} (h : ArmedIn .identifyButton s) (hkey : NoKey s)
    (hsm : sm ≠ ⟨true, true, true⟩) (hcol : s.scan.currentColumn = 0#8) :
    exec (.step sm) s =
      .next { s with scan := { s.scan with phase := .idle }, latch := windowCleared s.latch, out := {} } :=
  (exec_step_not_asserted h hkey hsm).trans (by rw [if_pos hcol])

/-- A released step short of the threshold counts (R124). -/
theorem exec_step_counts {sm : Samples} {s : State} (h : ArmedIn .releasePending s) (hs0 : sm.s0 = false)
    (hshort : s.scan.releaseStableCount + 1#16 < s.cfg.debounceTicks) :
    exec (.step sm) s = .next (withCount (s.scan.releaseStableCount + 1#16) {} s) := by
  rw [exec_step_releasePending sm h]
  simp [hs0, BitVec.not_le.2 hshort, withCount, h.2]

/-- Column steps that fail move the cursor down by one each, and nothing else (R121). -/
theorem runsTo_failing {sms : List Samples} {s : State} (h : ArmedIn .identifyButton s) (hkey : NoKey s)
    (hfail : ∀ sm ∈ sms, sm ≠ ⟨true, true, true⟩) (hlen : sms.length ≤ s.scan.currentColumn.toNat) :
    ∃ o, RunsTo (sms.map .step) s []
      (withCursor (s.scan.currentColumn - BitVec.ofNat 8 sms.length) o s) := by
  induction sms generalizing s with
  | nil => exact ⟨s.out, by simpa [withCursor] using RunsTo.nil s⟩
  | cons sm sms ih =>
    rw [List.length_cons] at hlen
    obtain ⟨hsm, hfail⟩ := List.forall_mem_cons.1 hfail
    have hstep := exec_step_next_column h hkey hsm (by bv_omega)
    obtain ⟨o, hrun⟩ := ih (s := withCursor (s.scan.currentColumn - 1#8) {} s) h hkey hfail
      (by dsimp only [withCursor]; bv_omega)
    have hcursor : s.scan.currentColumn - BitVec.ofNat 8 (sms.length + 1) =
        s.scan.currentColumn - 1#8 - BitVec.ofNat 8 sms.length := by bv_omega
    rw [List.length_cons, hcursor]
    exact ⟨o, hrun.cons hstep rfl⟩

/-- Released steps short of the threshold count, and do nothing else (R124). -/
theorem runsTo_released {sms : List Samples} {s : State} (h : ArmedIn .releasePending s)
    (hreleased : ∀ sm ∈ sms, sm.s0 = false)
    (hlen : s.scan.releaseStableCount.toNat + sms.length < s.cfg.debounceTicks.toNat) :
    ∃ o, RunsTo (sms.map .step) s []
      (withCount (s.scan.releaseStableCount + BitVec.ofNat 16 sms.length) o s) := by
  induction sms generalizing s with
  | nil => exact ⟨s.out, by simpa [withCount] using RunsTo.nil s⟩
  | cons sm sms ih =>
    rw [List.length_cons] at hlen
    obtain ⟨hsm, hreleased⟩ := List.forall_mem_cons.1 hreleased
    have hstep := exec_step_counts h hsm (by bv_omega)
    obtain ⟨o, hrun⟩ := ih (s := withCount (s.scan.releaseStableCount + 1#16) {} s) h hreleased
      (by dsimp only [withCount]; bv_omega)
    have hcount : s.scan.releaseStableCount + BitVec.ofNat 16 (sms.length + 1) =
        s.scan.releaseStableCount + 1#16 + BitVec.ofNat 16 sms.length := by bv_omega
    rw [List.length_cons, hcount]
    exact ⟨o, hrun.cons hstep rfl⟩

/-- Asserted steps leave the key pressed, for ever (R136). -/
theorem runsTo_stuck {sms : List Samples} {s : State} (h : ArmedIn .releasePending s)
    (hasserted : ∀ sm ∈ sms, sm.s0 = true) :
    ∃ t, RunsTo (sms.map .step) s [] t ∧ ArmedIn .releasePending t ∧ activeKey t = activeKey s := by
  induction sms generalizing s with
  | nil => exact ⟨s, .nil s, h, rfl⟩
  | cons sm sms ih =>
    obtain ⟨hsm, hasserted⟩ := List.forall_mem_cons.1 hasserted
    have hstep := exec_step_releasePending sm h
    simp only [hsm, if_true] at hstep
    obtain ⟨t, hrun, ht, hkey⟩ := ih (s := withCount 0#16 {} s) h hasserted
    exact ⟨t, hrun.cons hstep rfl, ht, hkey⟩

/-! Runs to the end of a scan -/

/-- The released step that completes the count and the released step after it report the release of the active
key and end the cycle (R124 to R126). -/
theorem runsTo_release_end {a b : Samples} {s : State} (h : ArmedIn .releasePending s)
    (hvalid : s.scan.activeValid = true) (ha : a.s0 = false) (hb : b.s0 = false)
    (hcount : s.cfg.debounceTicks ≤ s.scan.releaseStableCount + 1#16) :
    ∃ t, RunsTo ([a, b].map .step) s [⟨s.scan.activeCode, false⟩] t ∧ t.scan.phase = .idle ∧
      activeKey t = none ∧ irqEn t = true := by
  have hfirst := exec_step_releasePending a h
  simp only [ha, Bool.false_eq_true, if_false, if_pos hcount] at hfirst
  have hsecond := exec_step_checkForKeyChange (s := { s with
    scan := { s.scan with
      releaseStableCount := s.scan.releaseStableCount + 1#16, phase := .checkForKeyChange }
    out := {} }) b ⟨h.1, rfl⟩ hvalid
  simp only [hb, Bool.false_eq_true, if_false] at hsecond
  obtain ⟨hpolled, howner⟩ := h.1
  exact ⟨_, (RunsTo.single hsecond rfl).cons hfirst rfl, rfl, rfl, irqEn_iff.2 ⟨hpolled, rfl, howner⟩⟩

/-- A list of two entries or more ends in two. -/
theorem exists_eq_append_pair {α : Type} {l : List α} (h : 2 ≤ l.length) : ∃ first a b, l = first ++ [a, b] := by
  have hlast : (l.drop (l.length - 2)).length = 2 := by
    rw [List.length_drop]
    omega
  obtain ⟨a, b, hab⟩ := List.length_eq_two.1 hlast
  exact ⟨l.take (l.length - 2), a, b, by rw [← hab, List.take_append_drop]⟩

/-- The whole release of a key: the count, and the step after the one that completes it (R135 item 4). -/
theorem runsTo_release {sms : List Samples} {s : State} (h : ArmedIn .releasePending s)
    (hvalid : s.scan.activeValid = true) (hpending : s.scan.releaseStableCount < s.cfg.debounceTicks)
    (hreleased : ∀ sm ∈ sms, sm.s0 = false)
    (hlen : s.scan.releaseStableCount.toNat + sms.length = s.cfg.debounceTicks.toNat + 1) :
    ∃ t, RunsTo (sms.map .step) s [⟨s.scan.activeCode, false⟩] t ∧ t.scan.phase = .idle ∧
      activeKey t = none ∧ irqEn t = true := by
  have hlt : s.scan.releaseStableCount.toNat < s.cfg.debounceTicks.toNat := hpending
  obtain ⟨first, a, b, rfl⟩ := exists_eq_append_pair (by omega : 2 ≤ sms.length)
  simp only [List.length_append, List.length_cons, List.length_nil] at hlen
  obtain ⟨o, hcounting⟩ := runsTo_released h (fun sm hsm => hreleased sm (List.mem_append_left _ hsm))
    (by omega : _ + first.length < _)
  obtain ⟨t, hending, ht⟩ := runsTo_release_end (a := a) (b := b)
    (s := withCount (s.scan.releaseStableCount + BitVec.ofNat 16 first.length) o s) h hvalid
    (hreleased a (by simp)) (hreleased b (by simp)) (by dsimp only [withCount]; bv_omega)
  exact ⟨t, hcounting.append_steps hending, ht⟩

/-- A scan in which every column from the cursor down fails ends in `Idle`, with the window closed
(R135 item 3; 42_power_on_latch.md R169). -/
theorem runsTo_spurious {sms : List Samples} {s : State} (h : ArmedIn .identifyButton s) (hkey : NoKey s)
    (hfail : ∀ sm ∈ sms, sm ≠ ⟨true, true, true⟩) (hlen : sms.length = s.scan.currentColumn.toNat + 1) :
    ∃ t, RunsTo (sms.map .step) s [] t ∧ t.scan.phase = .idle ∧ irqEn t = true ∧
      t.latch = windowCleared s.latch := by
  obtain rfl | ⟨first, last, rfl⟩ := List.eq_nil_or_concat' sms
  · simp at hlen
  rw [List.length_append, List.length_singleton] at hlen
  obtain ⟨o, hfirst⟩ := runsTo_failing h hkey (fun sm hsm => hfail sm (List.mem_append_left _ hsm))
    (by omega : first.length ≤ _)
  have hzero : s.scan.currentColumn - BitVec.ofNat 8 first.length = 0#8 := by bv_omega
  have hlast := exec_step_column_zero
    (s := withCursor (s.scan.currentColumn - BitVec.ofNat 8 first.length) o s) h hkey (hfail last (by simp)) hzero
  obtain ⟨hpolled, howner⟩ := h.1
  have hrun := hfirst.append_steps (sms' := [last]) (RunsTo.single hlast rfl)
  exact ⟨_, hrun, rfl, irqEn_iff.2 ⟨hpolled, rfl, howner⟩, rfl⟩

/-- Column steps that fail, and then three asserted samples, report the press of the key in the column reached
(R121, R122). -/
theorem runsTo_press {failing : List Samples} {s : State} {k : KeyCode} {below : Nat}
    (h : ArmedIn .identifyButton s) (hkey : NoKey s) (hfail : ∀ sm ∈ failing, sm ≠ ⟨true, true, true⟩)
    (hlen : failing.length + below = s.scan.currentColumn.toNat)
    (hk : keymapAt s.cfg s.scan.currentRow.toNat below = some k) :
    ∃ u col, col.toNat = below ∧
      RunsTo ((failing ++ [(⟨true, true, true⟩ : Samples)]).map .step) s [⟨k, true⟩]
        (afterPress u s.scan.currentRow col k) := by
  obtain ⟨o, hfirst⟩ := runsTo_failing h hkey hfail (by omega)
  have hcol : (s.scan.currentColumn - BitVec.ofNat 8 failing.length).toNat = below := by bv_omega
  rw [← hcol] at hk
  have hlast := exec_step_asserted_of_keymapAt
    (s := withCursor (s.scan.currentColumn - BitVec.ofNat 8 failing.length) o s) h hk
  have hrun := hfirst.append_steps (sms' := [⟨true, true, true⟩]) (RunsTo.single hlast rfl)
  exact ⟨_, _, hcol, hrun⟩

/-- The whole scan of a key held alone: EDGE of its row and a STEP for each column tried after the last
(R128, R135 item 1). -/
theorem runsTo_scan {r : BitVec 3} {failing : List Samples} {s : State} {k : KeyCode} {below : Nat}
    (hi : Invariant s) (h : ArmedIn .idle s) (hr : r.toNat < s.cfg.numRows)
    (hlen : failing.length + 1 + below = s.cfg.numCols) (hfail : ∀ sm ∈ failing, sm ≠ ⟨true, true, true⟩)
    (hk : keymapAt s.cfg r.toNat below = some k) :
    ∃ u col, col.toNat = below ∧
      RunsTo (scanWith r (failing ++ [⟨true, true, true⟩])) s [⟨k, true⟩]
        (afterPress u (r.setWidth 8) col k) := by
  cases failing with
  | nil =>
    obtain ⟨k', hk', hedge⟩ := exec_edge_asserted hi hr h
    have hbelow : s.cfg.numCols - 1 = below := by rw [List.length_nil] at hlen; omega
    rw [hbelow, hk] at hk'
    cases hk'
    exact ⟨_, _, (lastColumn_toNat hi.configLegal).trans hbelow, RunsTo.single hedge rfl⟩
  | cons sm sms =>
    rw [List.length_cons] at hlen
    obtain ⟨hsm, hfail⟩ := List.forall_mem_cons.1 hfail
    have hedge := exec_edge_not_asserted hi hr h hsm
    rw [if_pos (by omega)] at hedge
    obtain ⟨u, col, hcol, hrun⟩ := runsTo_press (failing := sms) (k := k) (below := below) (s := { s with
      scan := { s.scan with phase := .identifyButton, currentRow := r.setWidth 8,
                            currentColumn := BitVec.ofNat 8 (s.cfg.numCols - 2) }
      out := {} }) ⟨h.1, rfl⟩ (hi.noKey (.inl h.2)) hfail
      (by rw [toNat_ofNat_col hi.configLegal (by omega)]; omega) (by rw [toNat_setWidth_row]; exact hk)
    exact ⟨u, col, hcol, hrun.cons hedge rfl⟩

end Sys2Proof.Machine
end

section
/-! PROOF LAYER. The phase table (40_scan_state_machine.md R130), operation by operation. -/

namespace Sys2Proof.Machine

open Sys2Proof.Claims

/-- The table's rows for a scan step in `IdentifyButton` that has reported nothing yet: the press at the cursor,
the next column, or the end of the cycle. -/
theorem goes_of_columnStep {sm : Samples} {s t : State} (h : scanStep sm s = .next t)
    (hp : s.scan.phase = .identifyButton) (hkey : NoKey s) (hquiet : s.out.events = []) :
    if sm = ⟨true, true, true⟩ then
      ∃ k, keymapAt s.cfg s.scan.currentRow.toNat s.scan.currentColumn.toNat = some k ∧
        Goes t .releasePending [⟨k, true⟩]
    else if 0#8 < s.scan.currentColumn then Goes t .identifyButton []
    else Goes t .idle [] := by
  by_cases hsm : sm = ⟨true, true, true⟩
  · subst hsm
    rw [scanStep_identifyButton _ hp, columnStep, if_pos (allAsserted_iff.2 rfl)] at h
    obtain ⟨k, hk, rfl⟩ := confirmPress_eq_next.1 h
    rw [if_pos rfl]
    exact ⟨k, hk, rfl, by simp [hquiet]⟩
  · rw [if_neg hsm]
    cases (scanStep_not_asserted hp hsm hkey).symm.trans h
    by_cases hcol : s.scan.currentColumn = 0#8
    · simp only [hcol, if_true, BitVec.lt_irrefl, if_false]
      exact ⟨rfl, hquiet⟩
    · rw [if_neg hcol, if_pos ((BitVec.pos_iff_ne_zero _).2 hcol)]
      exact ⟨hp, hquiet⟩

/-- The table's rows for a scan entered from `Idle` on a row of the matrix, by EDGE or by REL's poll. -/
theorem entryRows_of_scanStep {r : U8} {sm : Samples} {s t : State} {a : ArbitrationToken} {d : Bool}
    (h : scanStep sm (edgeEntry r { s with arb := a, out := { peerDone := d } }) = .next t) (hi : Invariant s)
    (hp : s.scan.phase = .idle) : EntryRows s t r.toNat sm := by
  unfold EntryRows
  have hrows := goes_of_columnStep h rfl (hi.noKey (.inl hp)) rfl
  have hcols : 0#8 < lastColumn s.cfg ↔ 1 < s.cfg.numCols := by
    rw [BitVec.pos_iff_ne_zero, Ne, lastColumn_eq_zero_iff hi.configLegal, not_not]
  simpa only [edgeEntry_scan_currentRow, edgeEntry_scan_currentColumn, edgeEntry_cfg, hcols,
    lastColumn_toNat hi.configLegal] using hrows

/-- An operation that leaves ScanState and emits nothing has no row of its own. -/
theorem goes_of_silent {s t : State} (hscan : t.scan = s.scan) (hevents : t.out.events = []) :
    Goes t s.scan.phase [] := ⟨by rw [hscan], hevents⟩

theorem phaseTable_edge {r : BitVec 3} {sm : Samples} {s t : State} (h : exec (.edge r sm) s = .next t)
    (hi : Invariant s) (hpolled : s.cfg.polled = false) : PhaseTable s t (.edge r sm) := by
  dsimp only [PhaseTable]
  obtain ⟨hirq, hstep⟩ | ⟨hmasked, rfl⟩ := execEdge_cases h
  · obtain ⟨-, hp, howner⟩ := irqEn_iff.1 hirq
    rw [if_pos ⟨howner, hp⟩, ← toNat_setWidth_row]
    exact entryRows_of_scanStep (a := s.arb) (d := false) hstep hi hp
  · rw [if_neg fun ⟨howner, hp⟩ => by simp [irqEn_iff.2 ⟨hpolled, hp, howner⟩] at hmasked]
    exact goes_of_silent rfl rfl

/-- The table's rows for STEP while the scanner has the pins, phase by phase. -/
theorem stepRows_of_exec {sm : Samples} {s t : State} (h : exec (.step sm) s = .next t) (hi : Invariant s)
    (howns : ScannerOwns s) : StepRows s t sm := by
  unfold StepRows
  cases hp : s.scan.phase with
  | idle =>
    cases (exec_step_of_disarmed sm (timerArmed_eq_false_iff.2 (.inr (.inl hp)))).symm.trans h
    exact ⟨hp, rfl⟩
  | identifyButton =>
    rw [exec_step_of_armed sm ⟨howns, hp⟩ (by decide)] at h
    exact goes_of_columnStep (s := s.quiet) h hp (hi.noKey (.inr hp)) rfl
  | releasePending =>
    cases (exec_step_releasePending sm ⟨howns, hp⟩).symm.trans h
    cases sm.s0 with
    | true => exact ⟨hp, rfl⟩
    | false =>
      have hpending := hi.countPending hp
      have hmax := s.cfg.debounceTicks.isLt
      by_cases hcount : s.cfg.debounceTicks ≤ s.scan.releaseStableCount + 1#16
      · have hdone : ¬ s.scan.releaseStableCount.toNat + 1 < s.cfg.debounceTicks.toNat := by bv_omega
        simp only [if_pos hcount, if_neg hdone]
        exact ⟨rfl, rfl⟩
      · have hshort : s.scan.releaseStableCount.toNat + 1 < s.cfg.debounceTicks.toNat := by bv_omega
        simp only [if_neg hcount, if_pos hshort]
        exact ⟨rfl, rfl⟩
  | checkForKeyChange =>
    cases (exec_step_checkForKeyChange sm ⟨howns, hp⟩ (hi.activePhase.2 (.inr hp))).symm.trans h
    cases sm.s0 <;> exact ⟨rfl, rfl⟩
  | releaseDetected => exact absurd hp hi.restingPhase

theorem phaseTable_step {sm : Samples} {s t : State} (h : exec (.step sm) s = .next t) (hi : Invariant s)
    (hpolled : s.cfg.polled = false) : PhaseTable s t (.step sm) := by
  dsimp only [PhaseTable]
  by_cases howner : s.arb.owner = .scanner
  · rw [if_pos howner]
    exact stepRows_of_exec h hi ⟨hpolled, howner⟩
  · rw [if_neg howner]
    cases (exec_step_of_disarmed sm (timerArmed_of_peer (ne_scanner_iff.1 howner))).symm.trans h
    exact goes_of_silent rfl rfl

theorem phaseTable_rel {rows : BitVec 5} {sm : Samples} {s t : State} (h : exec (.rel rows sm) s = .next t)
    (hi : Invariant s) (hpolled : s.cfg.polled = false) (hwf : (Instr.rel rows sm).wf s.cfg = true) :
    PhaseTable s t (.rel rows sm) := by
  dsimp only [PhaseTable]
  rw [exec, execRel_of_wf hwf] at h
  by_cases howner : s.arb.owner = .externalPeer
  · rw [if_pos howner] at h
    by_cases hp : s.scan.phase = .idle
    · rw [if_pos ⟨hpolled, hp⟩, lostKeypressPoll] at h
      cases hlow : lowestRow rows with
      | none =>
        rw [hlow] at h
        cases h
        rw [if_neg fun ⟨_, _, hrows⟩ => hrows (lowestRow_eq_none.1 hlow)]
        exact goes_of_silent rfl rfl
      | some r =>
        rw [hlow] at h
        have hrows : rows ≠ 0#5 := fun hzero => by simp [lowestRow_eq_none.2 hzero] at hlow
        obtain ⟨hbit, hbelow⟩ := lowestRow_eq_some.1 hlow
        have hlt := lowestRow_lt (rowsInRange_iff.2 (of_decide_eq_true hwf)) hlow
        rw [if_pos ⟨howner, hp, hrows⟩]
        refine ⟨r, hbit, hbelow, ?_⟩
        rw [← toNat_ofNat_row hi.configLegal hlt]
        exact entryRows_of_scanStep (d := true) h hi hp
    · rw [if_neg fun ⟨_, hidle⟩ => hp hidle] at h
      cases h
      rw [if_neg fun ⟨_, hidle, _⟩ => hp hidle]
      exact goes_of_silent rfl rfl
  · rw [if_neg howner] at h
    cases h
    rw [if_neg fun ⟨hpeer, _⟩ => howner hpeer]
    exact goes_of_silent rfl rfl

/-- With `POLLED = 0` every operation that completes moves `phase` as the table says, with its events. -/
theorem phaseTable_of_exec {i : Instr} {s t : State} (h : exec i s = .next t) (hi : Invariant s)
    (hpolled : s.cfg.polled = false) (hwf : i.wf s.cfg = true) : PhaseTable s t i := by
  cases i with
  | edge => exact phaseTable_edge h hi hpolled
  | step => exact phaseTable_step h hi hpolled
  | rel => exact phaseTable_rel h hi hpolled hwf
  | ptick =>
    obtain ⟨hp, -⟩ | ⟨-, rfl⟩ := execPtick_cases h
    · simp [hpolled] at hp
    · exact goes_of_silent rfl rfl
  | sedge | stick => exact congrArg _ (exec_scan h (by simp) (by simp) (by simp))
  | nop | wtick | req | rdkey | rdrc | kstate | supp | alt =>
    exact goes_of_silent (exec_scan h (by simp) (by simp) (by simp))
      (exec_events_nil h (by simp) (by simp) (by simp) (by simp) (by simp))

end Sys2Proof.Machine
end

section
/-! Certificates of the statements about the scan state machine. -/

namespace Sys2Proof.Proofs

open Sys2Proof.Machine Sys2Proof.Claims

/-- Settles O18: NOP only clears the outputs. -/
theorem nopChangesNothing : Obligations.NopChangesNothing := ⟨rfl, fun s _ => execNop_eq s⟩

/-- Settles O19: each of the three ways masks the row edges. -/
theorem edgeIgnoredWhileMasked : Obligations.EdgeIgnoredWhileMasked :=
  fun _ _ sm _ hr hmasked => exec_edge_of_masked sm hr (irqEn_eq_false_iff.2 hmasked)

/-- Settles O20: the scan step right after EdgeEntry confirms the press at the last column. -/
theorem edgeConfirmsInTheLastColumn : Obligations.EdgeConfirmsInTheLastColumn :=
  fun _ _ _ hi hr harmed => exec_edge_asserted hi hr harmed

/-- Settles O21: the scan step right after EdgeEntry fails the last column. -/
theorem edgeFailsTheLastColumn : Obligations.EdgeFailsTheLastColumn :=
  fun _ _ _ _ hi hr harmed hsm => exec_edge_not_asserted hi hr harmed hsm

/-- Settles O22: each of the three ways disarms the scan timer. -/
theorem stepIgnoredWhileDisarmed : Obligations.StepIgnoredWhileDisarmed :=
  fun _ sm _ hdisarmed => exec_step_of_disarmed sm (timerArmed_eq_false_iff.2 hdisarmed)

/-- Settles O23: the cursor names an entry of `KEYMAP`, and three asserted samples confirm it. -/
theorem columnStepConfirmsThePress : Obligations.ColumnStepConfirmsThePress :=
  fun _ _ hi harmed => exec_step_asserted hi harmed

/-- Settles O24: no key is active in `IdentifyButton`, so the end of the cycle reports none. -/
theorem columnStepFailsTheColumn : Obligations.ColumnStepFailsTheColumn :=
  fun _ _ _ hi harmed hsm => exec_step_not_asserted harmed (hi.noKey (.inr harmed.2)) hsm

/-- Settles O25 from the step in `ReleasePending`. -/
theorem releasePendingCounts : Obligations.ReleasePendingCounts :=
  fun _ sm _ harmed => exec_step_releasePending sm harmed

/-- Settles O26: a key is active in `CheckForKeyChange`, and its release is reported. -/
theorem keyChangeReportsTheRelease : Obligations.KeyChangeReportsTheRelease :=
  fun _ sm _ hi harmed => exec_step_checkForKeyChange sm harmed (hi.activePhase.2 (.inr harmed.2))

/-- Settles O49: every legal operation completes, and each follows its rows. -/
theorem phaseMovesAsTheTableSays : Obligations.PhaseMovesAsTheTableSays := by
  intro s i _ hi hpolled hwf
  obtain ⟨t, ht⟩ := exec_completes hi hwf
  exact ⟨t, ht, phaseTable_of_exec ht hi hpolled hwf⟩

/-- Settles O56, by induction on the columns that fail before the key's own. -/
theorem aHeldKeyIsFound : Obligations.AHeldKeyIsFound := by
  intro s r below failing _ hi harmed _ hr hlen hfail
  obtain ⟨k, hk⟩ := Config.wf_keymapAt hi.configLegal hr (by omega : below < s.cfg.numCols)
  obtain ⟨u, col, hcol, l, hrun, hevents⟩ := runsTo_scan hi harmed hr hlen hfail hk
  exact ⟨k, _, l, hk, hrun, hevents, rfl, rfl, toNat_setWidth_row r, hcol⟩

/-- Settles O57, by induction on the released steps. -/
theorem aShortReleaseReportsNothing : Obligations.AShortReleaseReportsNothing := by
  intro s sms _ harmed hreleased hlen
  obtain ⟨o, l, hrun, hevents⟩ := runsTo_released harmed hreleased hlen
  exact ⟨_, l, hrun, hevents, rfl⟩

/-- Settles O58: the steps short of the threshold, then the two that end the cycle. -/
theorem aReleaseIsReportedAfterTheDebounce : Obligations.AReleaseIsReportedAfterTheDebounce := by
  intro s sms _ hi harmed hreleased hlen
  have hvalid := hi.activePhase.2 (.inl harmed.2)
  obtain ⟨t, ⟨l, hrun, hevents⟩, ht⟩ :=
    runsTo_release harmed hvalid (hi.countPending harmed.2) hreleased hlen
  exact ⟨t, l, hrun, hevents, ht⟩

/-- Settles O59, by induction on the asserted steps. -/
theorem aStuckKeyStaysPressed : Obligations.AStuckKeyStaysPressed := by
  intro s sms _ harmed hasserted
  obtain ⟨t, ⟨l, hrun, hevents⟩, ht, hkey⟩ := runsTo_stuck harmed hasserted
  exact ⟨t, l, hrun, hevents, ht.2, hkey, timerArmed_of_armedIn ht (by decide)⟩

/-- Settles O60: the columns above column 0, then the step that ends the cycle there. -/
theorem aSpuriousScanEndsInIdle : Obligations.ASpuriousScanEndsInIdle := by
  intro s sms _ hi harmed hfail hlen
  obtain ⟨t, ⟨l, hrun, hevents⟩, ht⟩ := runsTo_spurious harmed (hi.noKey (.inr harmed.2)) hfail hlen
  exact ⟨t, l, hrun, hevents, ht⟩

end Sys2Proof.Proofs
end

section
/-! PROOF LAYER. The arbiter (41_shared_pin_arbiter.md): REQ and REL as whole states, what does not see the owner,
strict alternation, and a run with a handoff in it. -/

namespace Sys2Proof.Machine

open Sys2Proof.Claims

/-! REQ and REL, each by the owner it finds (R150, R151, R153) -/

theorem exec_req_of_scanner {s : State} (h : s.arb.owner = .scanner) :
    exec .req s = .next (setOwner .externalPeer (signalPeer s.quiet)) := by
  rw [exec, execReq_eq, if_pos h]
  rfl

theorem exec_req_of_peer {s : State} (h : s.arb.owner = .externalPeer) :
    exec .req s = .next (raiseArbMisuse (signalPeer s.quiet)) := by
  rw [exec, execReq_eq, if_neg (ne_scanner_iff.2 h)]
  rfl

theorem exec_rel_of_scanner {rows : BitVec 5} {s : State} (sm : Samples) (hrows : rows.toNat < 2 ^ s.cfg.numRows)
    (h : s.arb.owner = .scanner) : exec (.rel rows sm) s = .next (raiseArbMisuse (signalPeer s.quiet)) := by
  rw [exec, execRel_of_wf (decide_eq_true hrows), if_neg (by simp [h])]

/-- REL that runs no poll, or finds no row asserted in it, only gives the pins back (R151; 45 R202). -/
theorem exec_rel_of_no_poll {rows : BitVec 5} {s : State} (sm : Samples) (hrows : rows.toNat < 2 ^ s.cfg.numRows)
    (h : s.arb.owner = .externalPeer) (hpoll : s.cfg.polled = true ∨ s.scan.phase ≠ .idle ∨ rows = 0#5) :
    exec (.rel rows sm) s = .next (setOwner .scanner (signalPeer s.quiet)) := by
  rw [exec, execRel_of_wf (decide_eq_true hrows), if_pos h]
  split
  · rename_i hguard
    have hnone : rows = 0#5 := by simpa [hguard] using hpoll
    rw [lostKeypressPoll, lowestRow_eq_none.2 hnone]
  · rfl

/-- REL in `Idle` scans from the lowest asserted row (R152). -/
theorem exec_rel_of_lowestRow {rows : BitVec 5} {r : Nat} {s : State} (sm : Samples)
    (hrows : rows.toNat < 2 ^ s.cfg.numRows) (h : s.arb.owner = .externalPeer) (hpolled : s.cfg.polled = false)
    (hp : s.scan.phase = .idle) (hr : lowestRow rows = some r) :
    exec (.rel rows sm) s =
      scanStep sm (edgeEntry (BitVec.ofNat 8 r) (setOwner .scanner (signalPeer s.quiet))) := by
  rw [exec, execRel_of_wf (decide_eq_true hrows), if_pos h, if_pos ⟨hpolled, hp⟩, lostKeypressPoll, hr]

/-! A scan step carries `peer_done` through (20_memory.md R60) -/

theorem confirmPress_signalPeer (s : State) :
    confirmPress (signalPeer s) = andThen (confirmPress s) fun t => .next (signalPeer t) := by
  simp only [confirmPress, signalPeer_cfg, signalPeer_scan, latchCapture_eq]
  cases keymapAt s.cfg s.scan.currentRow.toNat s.scan.currentColumn.toNat <;> rfl

theorem releaseDetectedAction_signalPeer (s : State) :
    releaseDetectedAction (signalPeer s) = signalPeer (releaseDetectedAction s) := by
  rw [releaseDetectedAction_eq, releaseDetectedAction_eq]
  rfl

theorem scanStep_signalPeer (sm : Samples) (s : State) :
    scanStep sm (signalPeer s) = andThen (scanStep sm s) fun t => .next (signalPeer t) := by
  simp only [scanStep, signalPeer_scan]
  cases s.scan.phase with
  | idle => rfl
  | identifyButton =>
    cases hsm : allAsserted sm with
    | true => simp only [columnStep, hsm, if_true, confirmPress_signalPeer]
    | false =>
      simp only [columnStep_of_not_asserted hsm, signalPeer_scan, releaseDetectedAction_signalPeer, andThen_next]
      split <;> rfl
  | releasePending =>
    simp only [releasePendingStep, andThen_next]
    split <;> rfl
  | checkForKeyChange =>
    simp only [keyChangeStep_eq, andThen_next]
    rfl
  | releaseDetected => rw [releaseDetectedAction_signalPeer, andThen_next]

/-! What does not see who owns the pins (R154) -/

theorem execSedge_setOwner (n : BitVec 1) (lvl : Bool) (o : Owner) (s : State) :
    execSedge n lvl (setOwner o s) = andThen (execSedge n lvl s) fun t => .next (setOwner o t) := by
  by_cases hn : instanceInRange s.cfg n = true
  · simp only [execSedge, setOwner_cfg, setOwner_skeys, hn, if_true]
    cases s.skeys[n.toNat]? with
    | none => rfl
    | some k => rcases k with ⟨last, _ | _⟩ <;> rfl
  · simp only [execSedge, setOwner_cfg, hn]
    rfl

theorem execStick_setOwner (n : BitVec 1) (lvl : Bool) (o : Owner) (s : State) :
    execStick n lvl (setOwner o s) = andThen (execStick n lvl s) fun t => .next (setOwner o t) := by
  by_cases hn : instanceInRange s.cfg n = true
  · simp only [execStick, setOwner_cfg, setOwner_skeys, hn, if_true]
    rcases s.skeys[n.toNat]?, s.cfg.skeys[n.toNat]? with ⟨_ | ⟨last, idle⟩, _ | kc⟩
    · rfl
    · rfl
    · rfl
    · cases idle <;> cases last <;> cases lvl <;> rfl
  · simp only [execStick, setOwner_cfg, hn]
    rfl

/-- WTICK, the queries, SEDGE, STICK and NOP touch no shared pin. -/
theorem exec_setOwner {i : Instr} (hsampling : isSampling i = false) (harbiter : isArbiter i = false) (o : Owner)
    (s : State) : exec i (setOwner o s) = andThen (exec i s) fun t => .next (setOwner o t) := by
  cases i with
  | edge | step | ptick => cases hsampling
  | req | rel => cases harbiter
  | nop | kstate | supp | alt => rfl
  | wtick =>
    simp only [exec, execWtick_eq]
    rfl
  | rdkey =>
    simp only [exec, execRdkey, setOwner_latch, setOwner_cfg]
    cases s.latch.state with
    | capturedPending => cases keymapAt s.cfg s.latch.row.toNat s.latch.col.toNat <;> rfl
    | none | armed | consumed => rfl
  | rdrc =>
    simp only [exec, execRdrc, setOwner_latch]
    cases s.latch.state <;> rfl
  | sedge n lvl => exact execSedge_setOwner n lvl o s
  | stick n lvl => exact execStick_setOwner n lvl o s

theorem off_pins_of_isQuery {i : Instr} (h : isQuery i = true) : isSampling i = false ∧ isArbiter i = false := by
  cases i with
  | rdkey | rdrc | kstate | supp | alt => exact ⟨rfl, rfl⟩
  | _ => cases h

/-- Under the peer a legal operation that samples the matrix completes and is ignored. -/
theorem exec_sampling_ignored {i : Instr} {s : State} (ho : s.arb.owner = .externalPeer)
    (hsampling : isSampling i = true) (hwf : i.wf s.cfg = true) : exec i s = .next s.quiet := by
  cases i with
  | edge r sm => exact exec_edge_of_masked sm (of_decide_eq_true hwf) (irqEn_of_peer ho)
  | step sm => exact exec_step_of_disarmed sm (timerArmed_of_peer ho)
  | ptick rows => rw [exec, execPtick_of_wf hwf, if_neg (by simp [ho])]
  | _ => cases hsampling

/-- Under the peer no column is selected for a sample, but for the strobe that gives the pins back. -/
theorem sampledUnder_of_peer {s : State} {st : Strobe} (ho : s.arb.owner = .externalPeer)
    (hrel : ∀ levels l0 l1 l2, st ≠ .peerRel levels l0 l1 l2) (c : Nat) : sampledUnder s c st = false := by
  cases st with
  | peerRel levels l0 l1 l2 => exact absurd rfl (hrel levels l0 l1 l2)
  | rowEdge => rw [sampledUnder, irqEn_of_peer ho, Bool.false_and, Bool.false_and]
  | scanTick => rw [sampledUnder, timerArmed_of_peer ho, Bool.false_and]
  | pollTick => simp [sampledUnder, ho]
  | winTick | peerReq | query | skeyEdge | skeyTick => rfl

/-- Under the peer no row edge is delivered. -/
theorem strobeWord_rowEdge_of_peer {s : State} (ho : s.arb.owner = .externalPeer) (r : BitVec 3)
    (l0 l1 l2 : BitVec 5) : strobeWord s (.rowEdge r l0 l1 l2) = none := by
  rw [strobeWord, irqEn_of_peer ho]
  rfl

/-- Under the peer no scan tick is delivered. -/
theorem strobeWord_scanTick_of_peer {s : State} (ho : s.arb.owner = .externalPeer) (l0 l1 l2 : BitVec 5) :
    strobeWord s (.scanTick l0 l1 l2) = none := by
  rw [strobeWord, timerArmed_of_peer ho]
  rfl

/-- Under the peer a poll tick carries no sample. -/
theorem strobeWord_pollTick_of_peer {s : State} (ho : s.arb.owner = .externalPeer) (levels : BitVec 5) :
    strobeWord s (.pollTick levels) = delivered s.cfg.polled (encode (.ptick 0#5)) := by
  rw [strobeWord, pollTickRows_peer levels ho]

/-! Strict alternation (R155) -/

/-- An operation of a strictly alternating sequence is no misuse, and the rest alternates from the owner it
leaves. -/
theorem exec_of_properUse {i : Instr} {is : List Instr} {s t : State} {o : Owner} (h : exec i s = .next t)
    (huse : properUse s.arb.owner (i :: is) = some o) :
    t.arb.arbFault = s.arb.arbFault ∧ properUse t.arb.owner is = some o := by
  cases i with
  | req =>
    rw [exec_req_arb h]
    cases ho : s.arb.owner with
    | scanner => rw [ho] at huse; exact ⟨rfl, huse⟩
    | externalPeer => rw [ho] at huse; cases huse
  | rel =>
    rw [exec_rel_arb h]
    cases ho : s.arb.owner with
    | scanner => rw [ho] at huse; cases huse
    | externalPeer => rw [ho] at huse; exact ⟨rfl, huse⟩
  | _ =>
    rw [exec_arb h (by simp) (by simp)]
    exact ⟨rfl, by cases ho : s.arb.owner <;> rw [ho] at huse <;> exact huse⟩

theorem runOps_of_properUse {is : List Instr} {s t : State} {l : Log} {o : Owner}
    (huse : properUse s.arb.owner is = some o) (h : runOps is s = some (t, l)) :
    t.arb.arbFault = s.arb.arbFault ∧ t.arb.owner = o := by
  induction is generalizing s l with
  | nil =>
    cases h
    exact ⟨rfl, by simpa [properUse] using huse⟩
  | cons i is ih =>
    obtain ⟨u, l', hu, hrun, -⟩ := runOps_cons h
    obtain ⟨hfault, hrest⟩ := exec_of_properUse hu huse
    obtain ⟨hlast, howner⟩ := ih hrest hrun
    exact ⟨hlast.trans hfault, howner⟩

/-! What a run comes to: its last state and the matrix events, none where an operation stops -/

/-- The last state and the matrix events of a run. -/
def matrixRun (is : List Instr) (s : State) : Option (State × List Event) :=
  (runOps is s).map fun p => (p.1, matrixEvents p.2)

theorem matrixRun_cons {i : Instr} {s u : State} (h : exec i s = .next u) (is : List Instr) :
    matrixRun (i :: is) s =
      (matrixRun is u).map fun p => (p.1, (if isAnyStick i then [] else u.out.events) ++ p.2) := by
  simp only [matrixRun, runOps, h, Option.map_map]
  congr 1
  funext p
  simp only [Function.comp, matrixEvents_cons]

theorem matrixRun_cons_silent {i : Instr} {s u : State} (h : exec i s = .next u) (hsilent : u.out.events = [])
    (is : List Instr) : matrixRun (i :: is) s = matrixRun is u := by
  simp [matrixRun_cons h, hsilent]

theorem matrixRun_cons_stop {i : Instr} {s : State} (h : ∀ u, exec i s ≠ .next u) (is : List Instr) :
    matrixRun (i :: is) s = none := by
  rw [matrixRun, runOps]
  split
  · rename_i u hu
    exact absurd hu (h u)
  · rfl
  · rfl

/-- A run of at least one operation does not see the outputs it starts with. -/
theorem matrixRun_out {is : List Instr} (h : is ≠ []) (s : State) (o : Output) :
    matrixRun is { s with out := o } = matrixRun is s := by
  cases is with
  | nil => exact absurd rfl h
  | cons i is => simp only [matrixRun, runOps, exec_out]

/-! A handoff (R151, R154) -/

/-- An operation that touches no shared pin leaves ScanState and the token. -/
theorem exec_off_pins {i : Instr} {s t : State} (h : exec i s = .next t) (hsampling : isSampling i = false)
    (harbiter : isArbiter i = false) : t.scan = s.scan ∧ t.arb = s.arb := by
  cases i with
  | edge | step | ptick => cases hsampling
  | req | rel => cases harbiter
  | _ => exact ⟨exec_scan h (by simp) (by simp) (by simp), exec_arb h (by simp) (by simp)⟩

/-- Where REL runs no poll, the operations under the peer, REL and what follows come to the same as with the pins
never handed over: without REL, and without the samplings that the peer's hold has ignored. -/
theorem matrixRun_until_release {during after : List Instr} {rows : BitVec 5} {s : State} (sm : Samples)
    (ho : s.arb.owner = .scanner) (hbusy : s.cfg.polled = true ∨ s.scan.phase ≠ .idle)
    (hrows : rows.toNat < 2 ^ s.cfg.numRows)
    (hduring : ∀ i ∈ during, isArbiter i = false ∧ i.wf s.cfg = true) (hafter : after ≠ []) :
    matrixRun (during ++ .rel rows sm :: after) (setOwner .externalPeer s) =
      matrixRun (during.filter (fun i => !isSampling i) ++ after) s := by
  induction during generalizing s with
  | nil =>
    have hrel := exec_rel_of_no_poll (s := setOwner .externalPeer s) sm hrows rfl (hbusy.imp_right .inl)
    have hback : setOwner .scanner (signalPeer (setOwner .externalPeer s).quiet) =
        { s with out := { peerDone := true } } := by
      rcases s with ⟨cfg, scan, ⟨owner, fault⟩, latch, skeys, poll, out, rst, inputs⟩
      cases ho
      rfl
    rw [List.nil_append, matrixRun_cons_silent hrel rfl, hback]
    exact matrixRun_out hafter s _
  | cons i during ih =>
    obtain ⟨⟨harbiter, hwf⟩, hrest⟩ := List.forall_mem_cons.1 hduring
    cases hsampling : isSampling i with
    | true =>
      have hignored := exec_sampling_ignored (s := setOwner .externalPeer s) rfl hsampling hwf
      rw [List.cons_append, matrixRun_cons_silent hignored rfl, List.filter_cons_of_neg (by simp [hsampling])]
      exact (matrixRun_out (by simp) _ _).trans (ih ho hbusy hrows hrest)
    | false =>
      rw [List.cons_append, List.filter_cons_of_pos (by simp [hsampling]), List.cons_append]
      have hblind := exec_setOwner hsampling harbiter .externalPeer s
      cases hu : exec i s with
      | next u =>
        rw [hu, andThen_next] at hblind
        have hcfg := exec_cfg hu
        obtain ⟨hscan, harb⟩ := exec_off_pins hu hsampling harbiter
        rw [matrixRun_cons hblind, matrixRun_cons hu, setOwner_out]
        rw [← hcfg] at hbusy hrows hrest
        rw [ih (by rw [harb, ho]) (by rwa [hscan]) hrows hrest]
      | fault | refused =>
        rw [hu] at hblind
        rw [matrixRun_cons_stop (by simp [hblind]), matrixRun_cons_stop (by simp [hu])]

end Sys2Proof.Machine
end

section
/-! Certificates of the statements about the arbiter. -/

namespace Sys2Proof.Proofs

open Sys2Proof.Machine Sys2Proof.Claims

/-- Settles O27: under the peer every enable is 0. -/
theorem requestHandsThePinsOver : Obligations.RequestHandsThePinsOver := by
  intro s _ ho
  refine ⟨exec_req_of_scanner ho, fun t h => ?_⟩
  cases (exec_req_of_scanner ho).symm.trans h
  exact ⟨irqEn_of_peer rfl, timerArmed_of_peer rfl, rfl⟩

/-- Settles O28: no poll is run, or it finds no row; the pattern and the enables read ScanState and the owner. -/
theorem releaseResumesWhereItStopped : Obligations.ReleaseResumesWhereItStopped := by
  intro s rows sm _ hrows ho hpoll
  have hrel := exec_rel_of_no_poll sm hrows ho hpoll
  refine ⟨hrel, fun t h => ?_⟩
  cases hrel.symm.trans h
  refine ⟨fun c => rfl, rfl, fun hpolled => ⟨?_, ?_⟩⟩
  · exact Bool.eq_iff_iff.2 (irqEn_iff.trans (by simp [hpolled]))
  · simp [irqEn, timerArmed, hpolled, bne]

/-- Settles O29: both scan from the same row, and the scan step carries `peer_done` through. -/
theorem pollActsAsTheMissedEdge : Obligations.PollActsAsTheMissedEdge := by
  intro s rows sm r _ hi hrows hpolled ho hp hbit hbelow
  have hlow : lowestRow rows = some r.toNat := lowestRow_eq_some.2 ⟨hbit, hbelow⟩
  have hr : r.toNat < s.cfg.numRows := lowestRow_lt (rowsInRange_iff.2 hrows) hlow
  have hrow : (r.setWidth 8).toNat < s.cfg.numRows := by rwa [toNat_setWidth_row]
  obtain ⟨t, ht⟩ := (scanStart_edgeEntry hi hpolled hp hrow { s.arb with owner := .scanner } false).completes
    hi.configLegal sm
  refine ⟨t, (exec_edge_of_armed (s := setOwner .scanner s) sm hr ⟨⟨hpolled, rfl⟩, hp⟩).trans ht, ?_⟩
  rw [exec_rel_of_lowestRow sm hrows ho hpolled hp hlow, BitVec.ofNat_toNat]
  exact (scanStep_signalPeer sm _).trans (congrArg (andThen · _) ht)

/-- Settles O30: each misuse as a whole state, and no operation clears the flag. -/
theorem misuseOnlySetsTheFlag : Obligations.MisuseOnlySetsTheFlag :=
  fun _ => ⟨fun _ ho => exec_req_of_peer ho, fun _ ho _ sm hrows => exec_rel_of_scanner sm hrows ho,
    fun _ _ h hfaulted => (exec_arbFault_iff h).2 (.inl hfaulted)⟩

/-- Settles O51: the guards read the owner, and what touches no shared pin does not. -/
theorem peerExcludesTheScanner : Obligations.PeerExcludesTheScanner := by
  intro s i _ ho hwf
  refine ⟨irqEn_of_peer ho, timerArmed_of_peer ho, by simp [colDriveEn, ho],
    fun st hrel => sampledUnder_of_peer ho hrel, fun r _ _ _ _ _ _ => ?_, fun _ _ _ _ _ _ => ?_, fun _ _ => ?_,
    fun hsampling => exec_sampling_ignored ho hsampling hwf, fun hi t h => ?_⟩
  · simp only [strobeWord_rowEdge_of_peer ho]
  · simp only [strobeWord_scanTick_of_peer ho]
  · simp only [strobeWord_pollTick_of_peer ho]
  · have hoff : isSampling i = false ∧ isArbiter i = false := by
      obtain rfl | hquery | ⟨n, lvl, rfl⟩ | ⟨n, lvl, rfl⟩ := hi
      · exact ⟨rfl, rfl⟩
      · exact off_pins_of_isQuery hquery
      · exact ⟨rfl, rfl⟩
      · exact ⟨rfl, rfl⟩
    obtain ⟨hsampling, harbiter⟩ := hoff
    exact (exec_setOwner hsampling harbiter .scanner s).trans (congrArg (andThen · _) h)

/-- Settles O53, by induction on the operations of the run. -/
theorem alternationNeverFaults : Obligations.AlternationNeverFaults := by
  intro is s t l o hclean huse h
  obtain ⟨hfault, howner⟩ := runOps_of_properUse huse h
  exact ⟨by rwa [Faulted, hfault], howner⟩

/-- Settles O54: REQ, and then by induction on the operations of the handoff. -/
theorem handoffLeavesTheScanUnchanged : Obligations.HandoffLeavesTheScanUnchanged := by
  intro s during after rows sm _ ho hbusy hrows hduring hafter _
  have hlegal : ∀ i ∈ during, isArbiter i = false ∧ i.wf s.cfg = true := by simpa using hduring
  calc matrixRun (.req :: (during ++ .rel rows sm :: after)) s
    _ = matrixRun (during ++ .rel rows sm :: after) (setOwner .externalPeer (signalPeer s.quiet)) :=
        matrixRun_cons_silent (exec_req_of_scanner ho) rfl _
    _ = matrixRun (during ++ .rel rows sm :: after) (setOwner .externalPeer s) :=
        matrixRun_out (by simp) (setOwner .externalPeer s) { peerDone := true }
    _ = matrixRun (during.filter (fun i => !isSampling i) ++ after) s :=
        matrixRun_until_release sm ho hbusy hrows hlegal hafter

end Sys2Proof.Proofs
end

section
/-! PROOF LAYER. The power-on latch (42_power_on_latch.md): the result words of the two reads, what a captured latch
answers, and the causes that move it. -/

namespace Sys2Proof.Machine

open Sys2Proof.Claims

/-! WTICK, RDKEY and RDRC (R166 to R168) -/

/-- `Some(code)` is the valid bit above the code (30_encoding.md R93). -/
theorem someCode_eq_append (k : KeyCode) : someCode k = 0x01#8 ++ k := by
  revert k
  decide

/-- `Some((row, col))` is the valid bit and two fields of three bits (R168). -/
theorem someRowCol_eq_append (row col : U8) :
    someRowCol row col = 0x01#8 ++ 0#1 ++ row.extractLsb' 0 3 ++ 0#1 ++ col.extractLsb' 0 3 := by
  unfold someRowCol
  generalize row.extractLsb' 0 3 = r
  generalize col.extractLsb' 0 3 = c
  revert r c
  decide

theorem exec_rdkey_captured {s : State} {k : KeyCode} (h : s.latch.state = .capturedPending)
    (hk : keymapAt s.cfg s.latch.row.toNat s.latch.col.toNat = some k) :
    exec .rdkey s = .next { s with latch := consumed s.latch, out := { res := some (0x01#8 ++ k) } } := by
  rw [← someCode_eq_append, exec, execRdkey, h]
  dsimp only
  rw [hk]
  rfl

theorem exec_rdrc_captured {s : State} (h : s.latch.state = .capturedPending) :
    exec .rdrc s = .next { s with
      latch := consumed s.latch
      out := { res := some (0x01#8 ++ 0#1 ++ s.latch.row.extractLsb' 0 3 ++ 0#1 ++
                            s.latch.col.extractLsb' 0 3) } } := by
  rw [← someRowCol_eq_append, exec, execRdrc, h]
  rfl

/-- A read leaves nothing captured. -/
theorem exec_read_not_captured {i : Instr} {s t : State} (h : exec i s = .next t) (hi : i = .rdkey ∨ i = .rdrc) :
    t.latch.state ≠ .capturedPending := by
  rw [exec_read_latch h hi]
  split
  · exact nofun
  · assumption

/-- A read where nothing is captured answers `None`. -/
theorem exec_read_none {i : Instr} {s : State} (hi : i = .rdkey ∨ i = .rdrc)
    (h : s.latch.state ≠ .capturedPending) : exec i s = .next { s with out := { res := some 0x0000#16 } } := by
  rcases hi with rfl | rfl
  · exact execRdkey_none h
  · exact execRdrc_none h

/-! The three ways an operation leaves the latch state, and what each has to show (R170) -/

/-- Where the latch state stays there is no cause to show. -/
theorem latchCause_of_state_eq {i : Instr} {s t : State} (h : t.latch.state = s.latch.state) :
    LatchCause s t i := by
  unfold LatchCause
  rw [h]
  cases s.latch.state <;> rfl

/-- Where the window is cleared, a closing cause must be shown for an open one. -/
theorem latchCause_of_windowCleared {i : Instr} {s t : State} (h : t.latch = windowCleared s.latch)
    (hcause : (i = .wtick ∧ s.latch.deadline ≤ 1#16) ∨ (EndsCycle s i ∧ t.scan.phase = .idle) ∨
      (∃ rows, i = .ptick rows) ∧ ∃ k, t.out.events.head? = some ⟨k, false⟩) : LatchCause s t i := by
  by_cases harmed : s.latch.state = .armed
  · have hclosed : t.latch.state = .none := by rw [h, windowCleared, if_pos harmed]
    unfold LatchCause
    rw [harmed, hclosed]
    exact hcause
  · exact latchCause_of_state_eq (by rw [h, windowCleared, if_neg harmed])

/-- Where a cell is captured, its press must be shown for an open window. -/
theorem latchCause_of_captured {i : Instr} {s t : State} {row col : U8} (h : t.latch = captured row col s.latch)
    (hcause : t.latch.row = row → t.latch.col = col →
      LatchesThePress s t i ∧ ∃ k, keymapAt s.cfg row.toNat col.toNat = some k ∧
        t.out.events.head? = some ⟨k, true⟩) : LatchCause s t i := by
  by_cases harmed : s.latch.state = .armed
  · rw [captured, if_pos harmed] at h
    have hrow : t.latch.row = row := by rw [h]
    have hcol : t.latch.col = col := by rw [h]
    have hstate : t.latch.state = .capturedPending := by rw [h]
    unfold LatchCause
    rw [harmed, hstate]
    dsimp only
    rw [hrow, hcol]
    exact hcause hrow hcol
  · exact latchCause_of_state_eq (by rw [h, captured, if_neg harmed])

/-! WTICK and the reads -/

/-- WTICK closes the window only from deadline 1 or less (R166). -/
theorem latchCause_wtick {s t : State} (h : exec .wtick s = .next t) : LatchCause s t .wtick := by
  cases (execWtick_eq s).symm.trans h
  by_cases hlast : s.latch.deadline ≤ 1#16
  · exact latchCause_of_windowCleared (if_pos hlast) (.inl ⟨rfl, hlast⟩)
  · refine latchCause_of_state_eq ?_
    dsimp only
    rw [if_neg hlast]
    split <;> rfl

/-- A read consumes what is captured (R167, R168). -/
theorem latchCause_read {i : Instr} {s t : State} (h : exec i s = .next t) (hi : i = .rdkey ∨ i = .rdrc) :
    LatchCause s t i := by
  have hlatch := exec_read_latch h hi
  by_cases hcaptured : s.latch.state = .capturedPending
  · have hconsumed : t.latch.state = .consumed := by rw [hlatch, if_pos hcaptured]; rfl
    unfold LatchCause
    rw [hcaptured, hconsumed]
    exact hi
  · exact latchCause_of_state_eq (by rw [hlatch, if_neg hcaptured])

/-! The scan step: a confirmed press captures, the end of a cycle closes, all else leaves the latch -/

/-- A scan step with samples `sm` from `u` ends the cycle: it fails column 0, or finds the key change released
(40_scan_state_machine.md R121, R125). -/
def StepEndsCycle (sm : Samples) (u : State) : Prop :=
  u.scan.phase = .identifyButton ∧ sm ≠ ⟨true, true, true⟩ ∧ u.scan.currentColumn = 0#8 ∨
    u.scan.phase = .checkForKeyChange ∧ sm.s0 = false

/-- An operation that runs a scan step moves the latch by the press it confirms or by the cycle it ends. -/
theorem ScanStart.latchCause {i : Instr} {sm : Samples} {s u t : State} (hstart : ScanStart s u)
    (h : scanStep sm u = .next t) (hends : StepEndsCycle sm u → EndsCycle s i) : LatchCause s t i := by
  have closes (hend : StepEndsCycle sm u) : LatchCause s (releaseDetectedAction u) i := by
    refine latchCause_of_windowCleared ?_ (.inr (.inl ⟨hends hend, ?_⟩))
    · rw [releaseDetectedAction_latch, hstart.latch]
    · rw [releaseDetectedAction_scan]
  cases scanStep_cases h with
  | confirms k hp hsm hk =>
    refine latchCause_of_captured (row := u.scan.currentRow) (col := u.scan.currentColumn)
      (by rw [hstart.latch]) fun hrow hcol => ⟨?_, k, ?_, ?_⟩
    · rw [LatchesThePress, if_neg (by simp [hstart.unpolled])]
      exact ⟨hrow, hcol⟩
    · rwa [← hstart.cfg]
    · rw [hstart.quiet]
      rfl
  | failsLastColumn hp hsm hcol => exact closes (.inl ⟨hp, hsm, hcol⟩)
  | endsCycle hp hs0 => exact closes (.inr ⟨hp, hs0⟩)
  | leavesReleaseDetected hp => exact absurd hp hstart.scan.restingPhase
  | changesKey => exact latchCause_of_state_eq (by simp [keyChangeStep_eq, hstart.latch])
  | rests | failsColumn | staysPressed | countsRelease | completesCount =>
    exact latchCause_of_state_eq (congrArg _ hstart.latch)

/-- Right after EdgeEntry only a scan of one column can end (R121, R128). -/
theorem numCols_eq_one_of_entry {r : U8} {sm : Samples} {s : State} (hwf : s.cfg.wf = true)
    (h : StepEndsCycle sm (edgeEntry r s)) : s.cfg.numCols = 1 ∧ sm ≠ ⟨true, true, true⟩ := by
  obtain ⟨-, hsm, hcol⟩ | ⟨hp, -⟩ := h
  · have hpos := numCols_pos hwf
    have hone := (lastColumn_eq_zero_iff hwf).1 hcol
    exact ⟨by omega, hsm⟩
  · cases hp

/-- An operation that completes has its operands in range (30_encoding.md R96). -/
theorem wf_of_exec {i : Instr} {s t : State} (h : exec i s = .next t) : i.wf s.cfg = true := by
  by_contra hbad
  rw [exec_of_not_wf (by simpa using hbad)] at h
  cases h

theorem latchCause_edge {r : BitVec 3} {sm : Samples} {s t : State} (h : exec (.edge r sm) s = .next t)
    (hi : Invariant s) : LatchCause s t (.edge r sm) := by
  obtain ⟨hirq, hstep⟩ | ⟨-, rfl⟩ := execEdge_cases h
  · obtain ⟨hpolled, hp, howner⟩ := irqEn_iff.1 hirq
    have hrow : (r.setWidth 8).toNat < s.cfg.numRows := by
      rw [toNat_setWidth_row]
      exact of_decide_eq_true (wf_of_exec h)
    refine (scanStart_edgeEntry hi hpolled hp hrow s.arb false).latchCause hstep fun hend => ?_
    exact ⟨⟨⟨hpolled, howner⟩, hp⟩, numCols_eq_one_of_entry hi.configLegal hend⟩
  · exact latchCause_of_state_eq rfl

theorem latchCause_step {sm : Samples} {s t : State} (h : exec (.step sm) s = .next t) (hi : Invariant s) :
    LatchCause s t (.step sm) := by
  obtain ⟨harmed, hstep⟩ | ⟨-, rfl⟩ := execStep_cases h
  · obtain ⟨hpolled, -, howner⟩ := timerArmed_iff.1 harmed
    have hstart : ScanStart s s.quiet := ⟨rfl, hpolled, hi.scan, rfl, rfl, rfl⟩
    refine hstart.latchCause hstep fun hend => ?_
    obtain ⟨hp, hsm, hcol⟩ | ⟨hp, hs0⟩ := hend
    · exact .inl ⟨⟨⟨hpolled, howner⟩, hp⟩, hcol, hsm⟩
    · exact .inr ⟨⟨⟨hpolled, howner⟩, hp⟩, hs0⟩
  · exact latchCause_of_state_eq rfl

/-- REL moves the latch only by the scan step of its poll (41_shared_pin_arbiter.md R151 to R153). -/
theorem latchCause_rel {rows : BitVec 5} {sm : Samples} {s t : State} (h : exec (.rel rows sm) s = .next t)
    (hi : Invariant s) : LatchCause s t (.rel rows sm) := by
  have hrows : rows.toNat < 2 ^ s.cfg.numRows := of_decide_eq_true (wf_of_exec h)
  cases howner : s.arb.owner with
  | scanner =>
    cases (exec_rel_of_scanner sm hrows howner).symm.trans h
    exact latchCause_of_state_eq rfl
  | externalPeer =>
    by_cases hpoll : s.cfg.polled = true ∨ s.scan.phase ≠ .idle ∨ rows = 0#5
    · cases (exec_rel_of_no_poll sm hrows howner hpoll).symm.trans h
      exact latchCause_of_state_eq rfl
    · obtain ⟨hpolled, hp, hne⟩ : s.cfg.polled = false ∧ s.scan.phase = .idle ∧ rows ≠ 0#5 := by
        simpa using hpoll
      obtain ⟨r, hr⟩ := Option.ne_none_iff_exists'.1 (mt lowestRow_eq_none.1 hne)
      have hlt := lowestRow_lt (rowsInRange_iff.2 hrows) hr
      have hrow : (BitVec.ofNat 8 r).toNat < s.cfg.numRows := by rwa [toNat_ofNat_row hi.configLegal hlt]
      rw [exec_rel_of_lowestRow sm hrows howner hpolled hp hr] at h
      refine (scanStart_edgeEntry hi hpolled hp hrow _ true).latchCause h fun hend => ?_
      exact ⟨hpolled, howner, hp, hne, numCols_eq_one_of_entry hi.configLegal hend⟩

/-! PTICK: the first report decides (45_polled_variant.md R201) -/

/-- The report of row `r` is the first event of a poll of column `c` from `s` to `t`, and what the poll does to the
latch. -/
structure FirstReport (rows : BitVec 5) (c r : Nat) (s t : State) : Prop where
  cell : (cellAt s.poll r c).any (reported s.cfg (rows.getLsbD r)) = true
  event : ∃ k, keymapAt s.cfg r c = some k ∧ t.out.events.head? = some ⟨k, rows.getLsbD r⟩
  latch : t.latch = if rows.getLsbD r then captured (BitVec.ofNat 8 r) (BitVec.ofNat 8 c) s.latch
    else windowCleared s.latch

theorem captured_not_armed (row col : U8) (l : PowerOnLatch) : (captured row col l).state ≠ .armed := by
  unfold captured
  split
  · exact nofun
  · assumption

theorem windowCleared_not_armed (l : PowerOnLatch) : (windowCleared l).state ≠ .armed := by
  unfold windowCleared
  split
  · exact nofun
  · assumption

/-- A closed window stays as it is through a poll. -/
theorem pollRows_latch_of_closed {rows : BitVec 5} {c : Nat} {rs : List Nat} {s t : State}
    (h : pollRows rows c rs s = .next t) (hclosed : s.latch.state ≠ .armed) : t.latch = s.latch := by
  induction rs generalizing s with
  | nil => cases h; rfl
  | cons r rs ih =>
    obtain ⟨u, hu, ht⟩ := andThen_eq_next.1 h
    have hlatch : u.latch = s.latch := by
      obtain ⟨x, -, ⟨-, rfl⟩ | ⟨-, -, k, -, rfl⟩ | ⟨-, -, rfl⟩⟩ := pollCell_eq_next.1 hu
      · rfl
      · simp [latchCapture_eq, latchWindowClear_eq, hclosed]
      · rfl
    rw [ih ht (by rwa [hlatch]), hlatch]

/-- A poll adds its events after those already emitted. -/
theorem pollRows_keeps_events {rows : BitVec 5} {c : Nat} {rs : List Nat} {s t : State}
    (h : pollRows rows c rs s = .next t) : s.out.events <+: t.out.events := by
  induction rs generalizing s with
  | nil => cases h; exact ⟨[], List.append_nil _⟩
  | cons r rs ih =>
    obtain ⟨u, hu, ht⟩ := andThen_eq_next.1 h
    have hfirst : s.out.events <+: u.out.events := by
      obtain ⟨x, -, ⟨-, rfl⟩ | ⟨-, -, k, -, rfl⟩ | ⟨-, -, rfl⟩⟩ := pollCell_eq_next.1 hu <;> simp
    exact hfirst.trans (ih ht)

/-- One row of a poll that has reported nothing yet leaves the latch and reports nothing, or reports first, after
which the latch is not armed. -/
theorem pollCell_firstReport {rows : BitVec 5} {c r : Nat} {s u : State}
    (h : pollCell (rows.getLsbD r) r c s = .next u) (hquiet : s.out.events = []) :
    (u.latch = s.latch ∧ u.out.events = []) ∨ FirstReport rows c r s u ∧ u.latch.state ≠ .armed := by
  obtain ⟨x, hx, ⟨-, rfl⟩ | ⟨ha, hd, k, hk, rfl⟩ | ⟨-, -, rfl⟩⟩ := pollCell_eq_next.1 h
  · exact .inl ⟨rfl, hquiet⟩
  · refine .inr ⟨⟨by simp [hx, reported, ha, hd], ⟨k, hk, by simp [hquiet]⟩, ?_⟩, ?_⟩
    · simp only [latchCapture_latch, latchWindowClear_latch]
    · simp only [latchCapture_latch, latchWindowClear_latch]
      split
      · exact captured_not_armed _ _ _
      · exact windowCleared_not_armed _
  · exact .inl ⟨rfl, hquiet⟩

/-- A row polled leaves the cells of the other rows. -/
theorem pollCell_cellAt_of_ne {a : Bool} {c r q : Nat} {s u : State} (h : pollCell a r c s = .next u)
    (hne : q ≠ r) : cellAt u.poll q c = cellAt s.poll q c := by
  have other (x : Cell) : cellAt (setCell r c x s).poll q c = cellAt s.poll q c := by
    rw [cellAt_setCell, if_neg fun ⟨heq, _⟩ => hne heq]
  obtain ⟨x, -, ⟨-, rfl⟩ | ⟨-, -, k, -, rfl⟩ | ⟨-, -, rfl⟩⟩ := pollCell_eq_next.1 h <;> exact other _

/-- A poll that starts with nothing reported leaves the latch, or its first report decides it. -/
theorem pollRows_firstReport {rows : BitVec 5} {c : Nat} {rs : List Nat} {s t : State}
    (h : pollRows rows c rs s = .next t) (hnodup : rs.Nodup) (hquiet : s.out.events = []) :
    t.latch = s.latch ∨ ∃ r ∈ rs, FirstReport rows c r s t := by
  induction rs generalizing s with
  | nil => cases h; exact .inl rfl
  | cons r rs ih =>
    obtain ⟨u, hu, ht⟩ := andThen_eq_next.1 h
    obtain ⟨hr, hrest⟩ := List.nodup_cons.1 hnodup
    obtain ⟨hlatch, hsilent⟩ | ⟨hfirst, hclosed⟩ := pollCell_firstReport hu hquiet
    · refine (ih ht hrest hsilent).imp (·.trans hlatch) fun ⟨q, hq, hreport⟩ => ?_
      have hcfg : u.cfg = s.cfg := by rw [pollCell_frame hu]
      have hcell := pollCell_cellAt_of_ne hu (ne_of_mem_of_not_mem hq hr)
      exact ⟨q, List.mem_cons_of_mem r hq, hcell ▸ hcfg ▸ hreport.cell, hcfg ▸ hreport.event,
        hlatch ▸ hreport.latch⟩
    · obtain ⟨k, hk, hhead⟩ := hfirst.event
      obtain ⟨later, hevents⟩ := pollRows_keeps_events ht
      have hkept : t.out.events.head? = some ⟨k, rows.getLsbD r⟩ := by
        rw [← hevents, List.head?_append, hhead]
        rfl
      exact .inr ⟨r, List.mem_cons_self, hfirst.cell, ⟨k, hk, hkept⟩,
        (pollRows_latch_of_closed ht hclosed).trans hfirst.latch⟩

theorem latchCause_ptick {rows : BitVec 5} {s t : State} (h : exec (.ptick rows) s = .next t)
    (hi : Invariant s) : LatchCause s t (.ptick rows) := by
  obtain ⟨hpolled, -, u, hu, rfl⟩ | ⟨-, rfl⟩ := execPtick_cases h
  · obtain hlatch | ⟨r, hr, hcell, hevent, hlatch⟩ := pollRows_firstReport hu List.nodup_range rfl
    · exact latchCause_of_state_eq (congrArg _ hlatch)
    · have hrow := toNat_ofNat_row hi.configLegal (List.mem_range.1 hr)
      cases ha : rows.getLsbD r with
      | true =>
        rw [ha] at hevent hlatch
        refine latchCause_of_captured (hlatch.trans (if_pos rfl)) fun htrow htcol => ⟨?_, ?_⟩
        · rw [LatchesThePress, if_pos hpolled]
          refine ⟨rows, rfl, by rw [htcol, BitVec.ofNat_toNat, BitVec.setWidth_eq], ?_, ?_⟩
          · rw [htrow, hrow]
            exact hcell
          · rw [htrow, hrow, ha]
        · rwa [hrow, BitVec.ofNat_toNat, BitVec.setWidth_eq]
      | false =>
        rw [ha] at hevent hlatch
        obtain ⟨k, -, hhead⟩ := hevent
        exact latchCause_of_windowCleared (hlatch.trans (if_neg Bool.false_ne_true))
          (.inr (.inr ⟨⟨rows, rfl⟩, k, hhead⟩))
  · exact latchCause_of_state_eq rfl

/-- Every operation that completes under the invariant moves the latch only by its causes. -/
theorem latchCause_of_exec {i : Instr} {s t : State} (h : exec i s = .next t) (hi : Invariant s) :
    LatchCause s t i := by
  cases i with
  | edge => exact latchCause_edge h hi
  | step => exact latchCause_step h hi
  | rel => exact latchCause_rel h hi
  | wtick => exact latchCause_wtick h
  | rdkey => exact latchCause_read h (.inl rfl)
  | rdrc => exact latchCause_read h (.inr rfl)
  | ptick => exact latchCause_ptick h hi
  | nop | req | kstate | supp | alt | sedge | stick =>
    exact latchCause_of_state_eq (by rw [show t = _ from exec_opFrame h])

end Sys2Proof.Machine
end

section
/-! Certificates of the statements about the power-on latch. -/

namespace Sys2Proof.Proofs

open Sys2Proof.Machine Sys2Proof.Claims

/-- Settles O31: the one equation of WTICK, by the latch state. -/
theorem windowTickCountsDown : Obligations.WindowTickCountsDown := by
  intro s _
  rw [exec, execWtick_eq, windowCleared]
  by_cases harmed : s.latch.state = .armed
  · simp only [harmed, if_true]
  · simp only [harmed, if_false, ite_self]

/-- Settles O32: a captured cell is one of the matrix, so `KEYMAP` has its code. -/
theorem rdkeyAnswersOnce : Obligations.RdkeyAnswersOnce := by
  refine fun s _ hi => ⟨fun hcaptured => ?_, exec_read_none (.inl rfl)⟩
  obtain ⟨hrow, hcol⟩ := hi.latchCell hcaptured
  obtain ⟨k, hk⟩ := Config.wf_keymapAt hi.configLegal hrow hcol
  exact ⟨k, hk, exec_rdkey_captured hcaptured hk⟩

/-- Settles O33 by the latch state. -/
theorem rdrcAnswersOnce : Obligations.RdrcAnswersOnce :=
  fun _ _ => ⟨exec_rdrc_captured, exec_read_none (.inr rfl)⟩

/-- Settles O34: the first read leaves nothing captured for the second. -/
theorem secondReadAnswersNone : Obligations.SecondReadAnswersNone :=
  fun _ _ _ _ _ hi hj h => exec_read_none hj (exec_read_not_captured h hi)

/-- Settles O50, operation by operation: what it leaves of the latch, and the cause of each move. -/
theorem latchMovesOnlyByItsCauses : Obligations.LatchMovesOnlyByItsCauses :=
  fun _ _ _ _ hi h => latchCause_of_exec h hi

end Sys2Proof.Proofs
end

section
/-! PROOF LAYER. The host queries KSTATE, SUPP and ALT (43_host_queries.md): their result words, the debounced
pressed state in each variant, and the entries of a capability table. -/

namespace Sys2Proof.Machine

/-! The result words (30_encoding.md R93) -/

theorem pressedResult_zero_or_one (b : Bool) : pressedResult b = 0#16 ∨ pressedResult b = 1#16 := by
  revert b
  decide

theorem pressedResult_eq_one_iff (b : Bool) : pressedResult b = 1#16 ↔ b = true := by
  revert b
  decide

theorem codeResult_eq_append (k : KeyCode) : codeResult k = 0x00#8 ++ k :=
  BitVec.setWidth_eq_append (by decide)

/-! The debounced pressed state (R180) -/

theorem cellPressed_iff {s : State} {k : KeyCode} {r c : Nat} :
    cellPressed s k r c = true ↔
      ∃ x, keymapAt s.cfg r c = some k ∧ cellAt s.poll r c = some x ∧ x.level = true := by
  simp [cellPressed, Option.any_eq_true]

/-- In the interrupt-driven variant the pressed key is the active one. -/
theorem keyPressed_iff_of_interrupt {s : State} (hpolled : s.cfg.polled = false) (k : KeyCode) :
    keyPressed s k = true ↔ s.scan.activeValid = true ∧ s.scan.activeCode = k := by
  simp [keyPressed, hpolled]

/-- In the polled variant the key is looked up in reverse, cell by cell. -/
theorem keyPressed_iff_of_polled {s : State} (hpolled : s.cfg.polled = true) (k : KeyCode) :
    keyPressed s k = true ↔ ∃ r < s.cfg.numRows, ∃ c < s.cfg.numCols, ∃ x,
      keymapAt s.cfg r c = some k ∧ cellAt s.poll r c = some x ∧ x.level = true := by
  simp only [keyPressed, hpolled, if_true, List.any_eq_true, List.mem_range, cellPressed_iff]

/-! The capability tables (R181, R182) -/

/-- An entry of the table, and `UNUSED` (0x00) where the table ends. -/
theorem capabilityAt_eq_getD (t : Vector KeyCode maxKeys) (i : Nat) :
    capabilityAt t i = (t[i]?).getD 0x00#8 := by
  by_cases hi : i < maxKeys
  · rw [capabilityAt, dif_pos hi, Vector.getElem?_eq_getElem hi, Option.getD_some]
  · rw [capabilityAt, dif_neg hi, Vector.getElem?_eq_none (Nat.le_of_not_lt hi), Option.getD_none, unused]

theorem codeResult_capabilityAt (t : Vector KeyCode maxKeys) (i : Nat) :
    codeResult (capabilityAt t i) = 0x00#8 ++ (t[i]?).getD 0x00#8 := by
  rw [codeResult_eq_append, capabilityAt_eq_getD]

end Sys2Proof.Machine
end

section
/-! Certificates of the statements about the host queries. -/

namespace Sys2Proof.Proofs

open Sys2Proof.Machine Sys2Proof.Claims

/-- Settles O35: the result is the bit of the debounced pressed state, which each variant reads in its own way. -/
theorem kstateAnswersTheDebouncedState : Obligations.KstateAnswersTheDebouncedState :=
  fun s k _ => ⟨pressedResult (keyPressed s k), execKstate_eq k s, pressedResult_zero_or_one _,
    fun hpolled => (pressedResult_eq_one_iff _).trans (keyPressed_iff_of_interrupt hpolled k),
    fun hpolled => (pressedResult_eq_one_iff _).trans (keyPressed_iff_of_polled hpolled k)⟩

/-- Settles O36: the one equation of SUPP, with the table read to its end and beyond. -/
theorem suppAnswersTheTable : Obligations.SuppAnswersTheTable := by
  intro s i _
  rw [exec, execSupp_eq, codeResult_capabilityAt]

/-- Settles O37, as SUPP on the other table. -/
theorem altAnswersTheTable : Obligations.AltAnswersTheTable := by
  intro s i _
  rw [exec, execAlt_eq, codeResult_capabilityAt]

end Sys2Proof.Proofs
end

section
/-! PROOF LAYER. The standalone keys (44_standalone_debouncer.md): what SEDGE and STICK do to the key they name, and
that a standalone key's events alternate along a run. -/

namespace Sys2Proof.Machine

open Sys2Proof.Claims

/-! SEDGE and STICK of a key (R190, R191) -/

/-- Every standalone key has a configuration and a state (10_state.md R34). -/
theorem exists_standaloneKey {s : State} (hi : Invariant s) {n : Nat} (hn : n < s.cfg.nSkey) :
    ∃ k kc, s.skeys[n]? = some k ∧ s.cfg.skeys[n]? = some kc :=
  ⟨_, _, List.getElem?_eq_getElem (hi.keyCount ▸ hn), List.getElem?_eq_getElem hn⟩

/-- A configured key is a legal operand (30_encoding.md R96). -/
theorem instanceInRange_of_key {c : Config} {n : BitVec 1} {kc : StandaloneKeyConfig}
    (hkc : c.skeys[n.toNat]? = some kc) : instanceInRange c n = true :=
  instanceInRange_iff.2 (List.getElem?_eq_some_iff.1 hkc).1

/-- SEDGE clears `idle` where it is set (R190). -/
theorem execSedge_of_key {s : State} {n : BitVec 1} {kc : StandaloneKeyConfig} {k : StandaloneKeyState}
    (hkc : s.cfg.skeys[n.toNat]? = some kc) (hk : s.skeys[n.toNat]? = some k) (lvl : Bool) :
    execSedge n lvl s = .next { s with
      skeys := if k.idle then s.skeys.set n.toNat { k with idle := false } else s.skeys, out := {} } := by
  rw [execSedge, if_pos (instanceInRange_of_key hkc), hk]
  dsimp only
  cases k.idle <;> rfl

/-- STICK is ignored of an idle key, reports a changed level, and rests on an unchanged one (R191). -/
theorem execStick_of_key {s : State} {n : BitVec 1} {kc : StandaloneKeyConfig} {k : StandaloneKeyState}
    (hkc : s.cfg.skeys[n.toNat]? = some kc) (hk : s.skeys[n.toNat]? = some k) (lvl : Bool) :
    execStick n lvl s = .next
      (if k.idle then { s with out := {} }
      else if lvl ≠ k.lastLevel then
        { s with
          skeys := s.skeys.set n.toNat { lastLevel := lvl, idle := false }
          out := { events := [⟨kc.code, decide (lvl = kc.active)⟩] } }
      else { s with skeys := s.skeys.set n.toNat { k with idle := true }, out := {} }) := by
  rw [execStick, if_pos (instanceInRange_of_key hkc), hk, hkc]
  dsimp only
  cases k.idle with
  | true => rfl
  | false => by_cases hlvl : lvl = k.lastLevel <;> simp [hlvl] <;> rfl

/-! The key reported as held -/

/-- What is held depends on the last level reported alone. -/
theorem standaloneHeld_congr (kc : StandaloneKeyConfig) {k k' : StandaloneKeyState}
    (h : k'.lastLevel = k.lastLevel) : standaloneHeld kc k' = standaloneHeld kc k := by
  rw [standaloneHeld, standaloneHeld, h]

/-- The report of a changed level goes from the key held before it to the key held after it: of the two levels
one is the active one. -/
theorem alternate_changedLevel (kc : StandaloneKeyConfig) {k k' : StandaloneKeyState}
    (h : k'.lastLevel ≠ k.lastLevel) :
    alternate (standaloneHeld kc k) [⟨kc.code, decide (k'.lastLevel = kc.active)⟩] =
      some (standaloneHeld kc k') := by
  by_cases hactive : k'.lastLevel = kc.active
  · have hreleased : k.lastLevel ≠ kc.active := hactive ▸ h.symm
    simp [standaloneHeld, alternate, hactive, hreleased]
  · have hheld : k.lastLevel = kc.active :=
      (Bool.eq_not.2 h.symm).trans (Bool.eq_not.2 (Ne.symm hactive)).symm
    simp [standaloneHeld, alternate, hactive, hheld]

/-! The events of a standalone key along a run -/

theorem standaloneEvents_cons (n : BitVec 1) (i : Instr) (es : List Event) (l : Log) :
    standaloneEvents n ((i, es) :: l) = (if isStick n i then es else []) ++ standaloneEvents n l := by
  cases h : isStick n i <;> simp [standaloneEvents, h]

/-- One operation leaves standalone key `n` a state, and the events of its timer go from the key held before the
operation to the key held after it. -/
def ReportsFor (n : BitVec 1) (kc : StandaloneKeyConfig) (k : StandaloneKeyState) (i : Instr) (t : State) : Prop :=
  ∃ k', t.skeys[n.toNat]? = some k' ∧
    alternate (standaloneHeld kc k) (if isStick n i then t.out.events else []) = some (standaloneHeld kc k')

/-- An operation that keeps the level and reports nothing for the key. -/
theorem ReportsFor.silent {n : BitVec 1} {k k' : StandaloneKeyState} {i : Instr} {t : State}
    (kc : StandaloneKeyConfig) (hk' : t.skeys[n.toNat]? = some k') (hlevel : k'.lastLevel = k.lastLevel)
    (hevents : (if isStick n i then t.out.events else []) = []) : ReportsFor n kc k i t :=
  ⟨k', hk', by rw [hevents, standaloneHeld_congr kc hlevel, alternate]⟩

theorem reportsFor_sedge {s t : State} {n : BitVec 1} {kc : StandaloneKeyConfig} {k : StandaloneKeyState}
    {lvl : Bool} (hkc : s.cfg.skeys[n.toNat]? = some kc) (hk : s.skeys[n.toNat]? = some k)
    (h : execSedge n lvl s = .next t) : ReportsFor n kc k (.sedge n lvl) t := by
  cases (execSedge_of_key hkc hk lvl).symm.trans h
  obtain ⟨hn, -⟩ := List.getElem?_eq_some_iff.1 hk
  cases k.idle with
  | true => exact .silent kc (k' := { k with idle := false }) (by simp [hn]) rfl rfl
  | false => exact .silent kc (k' := k) hk rfl rfl

theorem reportsFor_stick {s t : State} {n : BitVec 1} {kc : StandaloneKeyConfig} {k : StandaloneKeyState}
    {lvl : Bool} (hkc : s.cfg.skeys[n.toNat]? = some kc) (hk : s.skeys[n.toNat]? = some k)
    (h : execStick n lvl s = .next t) : ReportsFor n kc k (.stick n lvl) t := by
  cases (execStick_of_key hkc hk lvl).symm.trans h
  obtain ⟨hn, -⟩ := List.getElem?_eq_some_iff.1 hk
  split
  · exact .silent kc hk rfl (ite_self _)
  · split
    · rename_i hchanged
      exact ⟨{ lastLevel := lvl, idle := false }, by simp [hn],
        by simpa [isStick] using alternate_changedLevel kc (k' := ⟨lvl, false⟩) hchanged⟩
    · exact .silent kc (k' := { k with idle := true }) (by simp [hn]) rfl (ite_self _)

/-- Every operation reports for a standalone key by its timer only (R191, R192). -/
theorem exec_reportsFor {i : Instr} {s t : State} {n : BitVec 1} {kc : StandaloneKeyConfig}
    {k : StandaloneKeyState} (hkc : s.cfg.skeys[n.toNat]? = some kc) (hk : s.skeys[n.toNat]? = some k)
    (h : exec i s = .next t) : ReportsFor n kc k i t := by
  have other {m : BitVec 1} (hm : m ≠ n) (hsame : ∀ j, j ≠ m.toNat → t.skeys[j]? = s.skeys[j]?) :
      t.skeys[n.toNat]? = some k :=
    (hsame _ fun he => hm (BitVec.eq_of_toNat_eq he.symm)).trans hk
  cases i with
  | sedge m lvl =>
    by_cases hm : m = n
    · cases hm
      exact reportsFor_sedge hkc hk h
    · exact .silent kc (other hm (execSedge_frame (lvl := lvl) h).2) rfl rfl
  | stick m lvl =>
    by_cases hm : m = n
    · cases hm
      exact reportsFor_stick hkc hk h
    · exact .silent kc (other hm (execStick_frame h).2) rfl (if_neg (by simpa [isStick] using hm))
  | _ => exact .silent kc (by rw [exec_skeys h (by simp) (by simp)]; exact hk) rfl rfl

/-- The events of a standalone key along a run go from the key held before it to the key held after it. -/
theorem runOps_standalone_alternates {is : List Instr} {s t : State} {l : Log} {n : BitVec 1}
    {kc : StandaloneKeyConfig} {k k' : StandaloneKeyState} (h : runOps is s = some (t, l))
    (hkc : s.cfg.skeys[n.toNat]? = some kc) (hk : s.skeys[n.toNat]? = some k)
    (hk' : t.skeys[n.toNat]? = some k') :
    alternate (standaloneHeld kc k) (standaloneEvents n l) = some (standaloneHeld kc k') := by
  induction is generalizing s l k with
  | nil =>
    cases h
    cases hk.symm.trans hk'
    simp [standaloneEvents, alternate]
  | cons i is ih =>
    obtain ⟨u, l', hu, hrun, rfl⟩ := runOps_cons h
    obtain ⟨ku, hku, hfirst⟩ := exec_reportsFor hkc hk hu
    rw [standaloneEvents_cons, alternate_append hfirst]
    exact ih hrun (by rw [exec_cfg hu]; exact hkc) hku

end Sys2Proof.Machine
end

section
/-! Certificates of the statements about the standalone keys. -/

namespace Sys2Proof.Proofs

open Sys2Proof.Machine Sys2Proof.Claims

/-- Settles O40, by induction on the operations of the run. -/
theorem standaloneReportsAlternate : Obligations.StandaloneReportsAlternate :=
  fun _ _ _ _ _ _ _ _ _ hrun hkc hk hk' => runOps_standalone_alternates hrun hkc hk hk'

/-- Settles O38: every key in range has a state, on which SEDGE acts. -/
theorem standaloneEdgeStartsTheDebounce : Obligations.StandaloneEdgeStartsTheDebounce := by
  intro s n lvl _ hi hn
  obtain ⟨k, kc, hk, hkc⟩ := exists_standaloneKey hi hn
  exact ⟨k, hk, execSedge_of_key hkc hk lvl⟩

/-- Settles O39: every key in range has a state and a configuration, on which STICK acts. -/
theorem standaloneTickReportsOrRests : Obligations.StandaloneTickReportsOrRests := by
  intro s n lvl _ hi hn
  obtain ⟨k, kc, hk, hkc⟩ := exists_standaloneKey hi hn
  exact ⟨k, kc, hk, hkc, execStick_of_key hkc hk lvl⟩

end Sys2Proof.Proofs
end

section
/-! PROOF LAYER. The polled variant (45_polled_variant.md): where PTICK is ignored, what a poll does to the cells, the
events and the latch, and that with `POLLED = 1` no operation moves ScanState. -/

namespace Sys2Proof.Machine

open Sys2Proof.Claims

/-! PTICK by its guard (R201) -/

theorem exec_ptick_of_ignored {rows : BitVec 5} {s : State} (hrows : rows.toNat < 2 ^ s.cfg.numRows)
    (h : s.cfg.polled = false ∨ s.arb.owner = .externalPeer) : exec (.ptick rows) s = .next s.quiet := by
  rw [exec, execPtick_of_wf (decide_eq_true hrows), if_neg]
  rcases h with h | h <;> simp [h]

/-- PTICK that is not ignored polls every row, and goes on by one column. -/
theorem exec_ptick_polls {rows : BitVec 5} {s : State} (hi : Invariant s) (hrows : rows.toNat < 2 ^ s.cfg.numRows)
    (hpolled : s.cfg.polled = true) (howner : s.arb.owner = .scanner) :
    ∃ u, pollRows rows s.poll.col.toNat (List.range s.cfg.numRows) s.quiet = .next u ∧
      exec (.ptick rows) s = .next (advancePollColumn u) := by
  obtain ⟨t, ht⟩ := exec_completes (i := .ptick rows) hi (decide_eq_true hrows)
  obtain ⟨-, -, u, hu, rfl⟩ | ⟨hoff, -⟩ := execPtick_cases ht
  · exact ⟨u, hu, ht⟩
  · simp [hpolled, howner] at hoff

/-! The cells -/

/-- One row of a poll counts, reports or clears its cell, and leaves every other cell. -/
theorem pollCell_cellAt {a : Bool} {r c : Nat} {s u : State} (h : pollCell a r c s = .next u) (q k : Nat) :
    cellAt u.poll q k =
      if q = r ∧ k = c then (cellAt s.poll q k).map (polledCell s.cfg a) else cellAt s.poll q k := by
  obtain ⟨x, hx, hcase⟩ := pollCell_eq_next.1 h
  have hpoll : u.poll = (setCell r c (polledCell s.cfg a x) s).poll := by
    obtain ⟨ha, rfl⟩ | ⟨ha, hd, k, -, rfl⟩ | ⟨ha, hd, rfl⟩ := hcase
    · rw [polledCell, if_pos ha]
    · rw [polledCell, if_neg ha, if_pos hd]
    · rw [polledCell, if_neg ha, if_neg hd]
  rw [hpoll, cellAt_setCell]
  refine if_ctx_congr Iff.rfl (fun ⟨hq, hk⟩ => ?_) fun _ => rfl
  rw [hq, hk, hx]
  rfl

/-- A poll does so with every row it is given, once each. -/
theorem pollRows_cellAt {rows : BitVec 5} {c : Nat} {rs : List Nat} {s t : State}
    (h : pollRows rows c rs s = .next t) (hnodup : rs.Nodup) (q k : Nat) :
    cellAt t.poll q k =
      if q ∈ rs ∧ k = c then (cellAt s.poll q k).map (polledCell s.cfg (rows.getLsbD q))
      else cellAt s.poll q k := by
  induction rs generalizing s with
  | nil => cases h; simp
  | cons r rs ih =>
    obtain ⟨u, hu, ht⟩ := andThen_eq_next.1 h
    obtain ⟨hr, hrest⟩ := List.nodup_cons.1 hnodup
    have hcfg : u.cfg = s.cfg := by rw [pollCell_frame hu]
    rw [ih ht hrest, pollCell_cellAt hu, hcfg]
    by_cases hq : q = r
    · subst hq
      simp [hr]
    · simp [hq]

/-! The events -/

/-- What a row of a poll reports hangs on its own cell, the column polled and the configuration. -/
theorem rowReported_congr {s u : State} {q : Nat} (rows : BitVec 5) (hcfg : u.cfg = s.cfg)
    (hcol : u.poll.col = s.poll.col)
    (hcell : cellAt u.poll q s.poll.col.toNat = cellAt s.poll q s.poll.col.toNat) :
    rowReported u rows q = rowReported s rows q := by
  rw [rowReported, rowReported, hcol, hcell, hcfg]

theorem rowEvent_congr {s u : State} {q : Nat} (rows : BitVec 5) (hcfg : u.cfg = s.cfg)
    (hcol : u.poll.col = s.poll.col)
    (hcell : cellAt u.poll q s.poll.col.toNat = cellAt s.poll q s.poll.col.toNat) :
    rowEvent u rows q = rowEvent s rows q := by
  rw [rowEvent, rowEvent, rowReported_congr rows hcfg hcol hcell, hcfg, hcol]

/-- The row of a cell is reported where the sample differs and the count reaches the threshold. -/
theorem rowReported_iff {s : State} {r : Nat} {x : Cell} (rows : BitVec 5)
    (hx : cellAt s.poll r s.poll.col.toNat = some x) :
    rowReported s rows r = true ↔ rows.getLsbD r ≠ x.level ∧ s.cfg.debounceTicks ≤ x.cnt + 1#16 := by
  simp [rowReported, reported, hx]

/-- One row of a poll adds the event its cell gives, if it gives one. -/
theorem pollCell_events {rows : BitVec 5} {r : Nat} {s u : State}
    (h : pollCell (rows.getLsbD r) r s.poll.col.toNat s = .next u) :
    u.out.events = s.out.events ++ (rowEvent s rows r).toList := by
  obtain ⟨x, hx, hcase⟩ := pollCell_eq_next.1 h
  rw [rowEvent]
  obtain ⟨ha, rfl⟩ | ⟨ha, hd, k, hk, rfl⟩ | ⟨-, hd, rfl⟩ := hcase
  · rw [if_neg fun hreport => ((rowReported_iff rows hx).1 hreport).1 ha]
    exact (List.append_nil _).symm
  · rw [if_pos ((rowReported_iff rows hx).2 ⟨ha, hd⟩), hk]
    rfl
  · rw [if_neg fun hreport => hd ((rowReported_iff rows hx).1 hreport).2]
    exact (List.append_nil _).symm

/-- A poll adds the events of the rows it is given, in their order. -/
theorem pollRows_events {rows : BitVec 5} {rs : List Nat} {s t : State}
    (h : pollRows rows s.poll.col.toNat rs s = .next t) (hnodup : rs.Nodup) :
    t.out.events = s.out.events ++ rs.filterMap (rowEvent s rows) := by
  induction rs generalizing s with
  | nil => cases h; simp
  | cons r rs ih =>
    obtain ⟨u, hu, ht⟩ := andThen_eq_next.1 h
    obtain ⟨hr, hrest⟩ := List.nodup_cons.1 hnodup
    have hcfg : u.cfg = s.cfg := by rw [pollCell_frame hu]
    have hcol : u.poll.col = s.poll.col := by rw [pollCell_frame hu]
    have hothers : rs.filterMap (rowEvent u rows) = rs.filterMap (rowEvent s rows) :=
      List.filterMap_congr fun q hq => rowEvent_congr rows hcfg hcol
        (pollCell_cellAt_of_ne hu (ne_of_mem_of_not_mem hq hr))
    rw [← hcol] at ht
    rw [ih ht hrest, pollCell_events hu, hothers, List.append_assoc]
    cases hevent : rowEvent s rows r <;> simp [hevent]

/-! The latch -/

/-- The latch after a poll whose first report is of this row, if there is a report. -/
def latchDecidedBy (s : State) (rows : BitVec 5) : Option Nat → PowerOnLatch
  | none => s.latch
  | some r => if rows.getLsbD r then captured (BitVec.ofNat 8 r) s.poll.col s.latch else windowCleared s.latch

theorem polledLatch_eq (s : State) (rows : BitVec 5) :
    polledLatch s rows = latchDecidedBy s rows ((List.range s.cfg.numRows).find? (rowReported s rows)) := by
  unfold polledLatch latchDecidedBy
  rfl

/-- A report leaves the latch not armed, so no later one moves it. -/
theorem latchDecidedBy_some_not_armed (s : State) (rows : BitVec 5) (r : Nat) :
    (latchDecidedBy s rows (some r)).state ≠ .armed := by
  rw [latchDecidedBy]
  split
  · exact captured_not_armed _ _ _
  · exact windowCleared_not_armed _

/-- One row of a poll leaves the latch to its own report. -/
theorem pollCell_latch {rows : BitVec 5} {r : Nat} {s u : State}
    (h : pollCell (rows.getLsbD r) r s.poll.col.toNat s = .next u) :
    u.latch = latchDecidedBy s rows (if rowReported s rows r then some r else none) := by
  obtain ⟨x, hx, ⟨ha, rfl⟩ | ⟨ha, hd, k, -, rfl⟩ | ⟨-, hd, rfl⟩⟩ := pollCell_eq_next.1 h
  · rw [if_neg fun hreport => ((rowReported_iff rows hx).1 hreport).1 ha]
    rfl
  · rw [if_pos ((rowReported_iff rows hx).2 ⟨ha, hd⟩)]
    simp [latchDecidedBy, latchCapture_latch, latchWindowClear_latch]
  · rw [if_neg fun hreport => hd ((rowReported_iff rows hx).1 hreport).2]
    rfl

/-- A poll leaves the latch to the first report among the rows it is given. -/
theorem pollRows_latch {rows : BitVec 5} {rs : List Nat} {s t : State}
    (h : pollRows rows s.poll.col.toNat rs s = .next t) (hnodup : rs.Nodup) :
    t.latch = latchDecidedBy s rows (rs.find? (rowReported s rows)) := by
  induction rs generalizing s with
  | nil => cases h; rfl
  | cons r rs ih =>
    obtain ⟨u, hu, ht⟩ := andThen_eq_next.1 h
    obtain ⟨hr, hrest⟩ := List.nodup_cons.1 hnodup
    have hlatch := pollCell_latch hu
    cases hreport : rowReported s rows r with
    | true =>
      rw [hreport, if_pos rfl] at hlatch
      have hclosed : u.latch.state ≠ .armed := hlatch ▸ latchDecidedBy_some_not_armed s rows r
      rw [pollRows_latch_of_closed ht hclosed, hlatch, List.find?_cons_of_pos hreport]
    | false =>
      rw [hreport, if_neg Bool.false_ne_true] at hlatch
      have hcfg : u.cfg = s.cfg := by rw [pollCell_frame hu]
      have hcol : u.poll.col = s.poll.col := by rw [pollCell_frame hu]
      have hothers : rs.find? (rowReported u rows) = rs.find? (rowReported s rows) :=
        List.find?_congr fun q hq => rowReported_congr rows hcfg hcol
          (pollCell_cellAt_of_ne hu (ne_of_mem_of_not_mem hq hr))
      rw [← hcol] at ht
      rw [ih ht hrest, hothers, List.find?_cons_of_neg (by simp [hreport])]
      cases rs.find? (rowReported s rows) <;> simp [latchDecidedBy, hlatch, hcol]

/-! PTICK whole -/

/-- The cells of the matrix are those of rows below `R`. -/
theorem lt_numRows_of_cellAt {c : Config} {p : PolledState} (hp : PollInvariant c p) {r k : Nat} {x : Cell}
    (h : cellAt p r k = some x) : r < c.numRows := by
  obtain ⟨l, hl, -⟩ := Option.bind_eq_some_iff.1 h
  obtain ⟨hlt, -⟩ := List.getElem?_eq_some_iff.1 hl
  exact hp.cellRows ▸ hlt

/-- A poll of every row writes the cells, the latch by the first report, and the reports as events. -/
theorem pollRows_eq {rows : BitVec 5} {s u : State}
    (h : pollRows rows s.poll.col.toNat (List.range s.cfg.numRows) s.quiet = .next u) :
    u = { s with
      poll := { s.poll with cells := u.poll.cells }
      latch := polledLatch s rows
      out := { events := (List.range s.cfg.numRows).filterMap (rowEvent s rows) } } := by
  have hevents := pollRows_events (s := s.quiet) h List.nodup_range
  have hlatch := pollRows_latch (s := s.quiet) h List.nodup_range
  have hdecided : u.latch = polledLatch s rows := hlatch.trans (polledLatch_eq s rows).symm
  rw [quiet_out, List.nil_append] at hevents
  rw [pollRows_frame h, hevents, hdecided]
  rfl

/-! ScanState with `POLLED = 1` (R200) -/

/-- REL runs no poll with `POLLED = 1`. -/
theorem exec_rel_scan_of_polled {rows : BitVec 5} {sm : Samples} {s t : State}
    (h : exec (.rel rows sm) s = .next t) (hpolled : s.cfg.polled = true) : t.scan = s.scan := by
  have hrows : rows.toNat < 2 ^ s.cfg.numRows := of_decide_eq_true (wf_of_exec h)
  cases ho : s.arb.owner with
  | scanner =>
    rw [exec_rel_of_scanner sm hrows ho] at h
    cases h
    rfl
  | externalPeer =>
    rw [exec_rel_of_no_poll sm hrows ho (.inl hpolled)] at h
    cases h
    rfl

/-- No operation moves ScanState with `POLLED = 1`. -/
theorem exec_scan_of_polled {i : Instr} {s t : State} (h : exec i s = .next t) (hpolled : s.cfg.polled = true) :
    t.scan = s.scan := by
  cases i with
  | edge r sm =>
    obtain ⟨hirq, -⟩ | ⟨-, rfl⟩ := execEdge_cases h
    · exact absurd hirq (by simp [irqEn_eq_false_iff.2 (.inl hpolled)])
    · rfl
  | step sm =>
    obtain ⟨harmed, -⟩ | ⟨-, rfl⟩ := execStep_cases h
    · exact absurd harmed (by simp [timerArmed_eq_false_iff.2 (.inl hpolled)])
    · rfl
  | rel rows sm => exact exec_rel_scan_of_polled h hpolled
  | _ => exact exec_scan h (by simp) (by simp) (by simp)

end Sys2Proof.Machine
end

section
/-! Certificates of the statements about the polled variant. -/

namespace Sys2Proof.Proofs

open Sys2Proof.Machine Sys2Proof.Claims

/-- Settles O42, by induction on the rows polled: a row's report hangs on its own cell only, and the first one closes
the window. -/
theorem pollTickPollsOneColumn : Obligations.PollTickPollsOneColumn := by
  intro s rows _ hi hrows hpolled howner
  obtain ⟨u, hu, hexec⟩ := exec_ptick_polls hi hrows hpolled howner
  have hcells := pollRows_cellAt hu List.nodup_range
  have hpoll := pollRows_eq hu
  have hcfg : u.cfg = s.cfg := by rw [hpoll]
  have hcol : u.poll.col = s.poll.col := by rw [hpoll]
  refine ⟨_, hexec, ?_, ?_, fun r x hx => ?_, fun r c hne => ?_⟩
  · rw [hpoll]
    rfl
  · rw [advancePollColumn_poll_col, hcol, hcfg]
    exact toNat_ofNat_col hi.configLegal (Nat.mod_lt _ (numCols_pos hi.configLegal))
  · have hr := List.mem_range.2 (lt_numRows_of_cellAt hi.poll hx)
    refine (hcells r _).trans ?_
    rw [if_pos ⟨hr, rfl⟩, quiet_poll, hx]
    rfl
  · exact (hcells r c).trans (if_neg fun ⟨_, hc⟩ => hne hc)

/-- Settles O43: the enables are dead, so EDGE and STEP are ignored, and REL runs no poll. -/
theorem polledModeHasNoPhases : Obligations.PolledModeHasNoPhases := by
  intro s _ hpolled
  have hirq : irqEn s = false := irqEn_eq_false_iff.2 (.inl hpolled)
  have harmed : timerArmed s = false := timerArmed_eq_false_iff.2 (.inl hpolled)
  exact ⟨hirq, harmed, fun c => by rw [colPattern, if_pos hpolled], fun r sm hr => exec_edge_of_masked sm hr hirq,
    fun sm => exec_step_of_disarmed sm harmed, fun i t h => exec_scan_of_polled h hpolled⟩

/-- Settles O41: the guard of PTICK fails. -/
theorem pollTickIgnored : Obligations.PollTickIgnored :=
  fun _ _ _ hrows hoff => exec_ptick_of_ignored hrows hoff

end Sys2Proof.Proofs
end

section
/-! PROOF LAYER. Reset and waiting (70_reset_and_hazards.md R250, R251, R254): what an input comes to while `rst` is 1,
under any configuration, legal or not. -/

namespace Sys2Proof.Machine

open Sys2Proof.Claims

/-- With no input waiting the block settles (R251). -/
theorem fetch_nil {s : State} (h : s.inputs = []) : fetch s = .settled s.settle := by
  rw [fetch, h]

/-! The words the block makes in reset (30_encoding.md R96) -/

theorem encode_not_illegal {c : Config} {i : Instr} (h : i.wf c = true) : ¬ Illegal c (encode i) := by
  simp [illegal_iff, decode_encode, h]

/-- At the reset values a standalone key with a state is one of the configuration's, whatever that is. -/
theorem lt_nSkey_of_held {s : State} {n : Nat} {p : StandaloneKeyState → Bool}
    (h : s.held.skeys[n]?.any p = true) : n < s.cfg.nSkey := by
  obtain ⟨k, hk, -⟩ := (Option.any_eq_true _ _).1 h
  obtain ⟨hlt, -⟩ := List.getElem?_eq_some_iff.1 hk
  exact hlt.trans_eq (List.length_map _)

/-- At the reset values only a query can make an illegal word. The invariant is not needed for it, so the
configuration may be any. -/
theorem strobeWord_held_not_illegal {s : State} {st : Strobe} {w : OpWord}
    (hquery : ∀ op arg, st = .query op arg → ¬ Illegal s.cfg (op ++ arg)) (h : strobeWord s.held st = some w) :
    ¬ Illegal s.cfg w := by
  cases st with
  | query op arg => cases h; exact hquery op arg rfl
  | winTick | peerReq => cases h; exact encode_not_illegal rfl
  | rowEdge r l0 l1 l2 =>
    obtain ⟨hguard, rfl⟩ := delivered_eq_some.1 h
    obtain ⟨-, hrow⟩ := Bool.and_eq_true_iff.1 hguard
    exact encode_not_illegal hrow
  | scanTick l0 l1 l2 =>
    obtain ⟨-, rfl⟩ := delivered_eq_some.1 h
    exact encode_not_illegal rfl
  | peerRel levels l0 l1 l2 =>
    cases h
    exact encode_not_illegal (decide_eq_true (sampleRows_lt s.cfg levels))
  | skeyEdge n lvl | skeyTick n lvl =>
    obtain ⟨hkey, rfl⟩ := delivered_eq_some.1 h
    exact encode_not_illegal (decide_eq_true (lt_nSkey_of_held hkey))
  | pollTick levels =>
    obtain ⟨-, rfl⟩ := delivered_eq_some.1 h
    exact encode_not_illegal (decide_eq_true (pollTickRows_lt s.held levels))

/-! Operations in reset are ignored (R250) -/

theorem takeWord_of_reset {s : State} {w : OpWord} (hrst : s.rst = true) (hw : ¬ Illegal s.cfg w) :
    takeWord w s = .settled s.held := by
  rw [takeWord, if_pos hrst]
  obtain ⟨hsettled, -⟩ | ⟨-, hillegal⟩ := takeInReset_cases w s
  · exact hsettled
  · exact absurd (illegal_iff.2 hillegal) hw

/-- In reset a strobe is ignored, whether it makes a word or not. -/
theorem accept_strobe_of_reset {s : State} {st : Strobe} (hrst : s.rst = true)
    (hquery : ∀ op arg, st = .query op arg → ¬ Illegal s.cfg (op ++ arg)) :
    accept s (.strobe st) = .settled s.held := by
  rw [accept, State.settle_of_reset hrst]
  cases hw : strobeWord s.held st with
  | none => rfl
  | some w => exact takeWord_of_reset hrst (strobeWord_held_not_illegal hquery hw)

/-- Lowering `rst` leaves the reset state to the first operation (R254). -/
theorem driveRst_false_of_reset {s : State} (hrst : s.rst = true) :
    driveRst false s = { State.resetOf s.cfg with inputs := s.inputs } := by
  simp [driveRst, hrst]

end Sys2Proof.Machine
end

section
/-! Certificates of the statements about reset and about a step with no input. -/

namespace Sys2Proof.Proofs

open Sys2Proof.Machine Sys2Proof.Claims

/-- Settles O7: the block settles, which out of reset clears the outputs only. -/
theorem stepWaitsForAnInput : Obligations.StepWaitsForAnInput := by
  intro s _ hin hrst
  have hfetch := fetch_nil hin
  rw [State.settle_of_running hrst] at hfetch
  exact step_settled hfetch

/-- Settles O11: raising `rst`, a word and a strobe under it come to the held reset state, and lowering it to the
reset state; no strobe but a query makes an illegal word there. -/
theorem resetHoldsEveryField : Obligations.ResetHoldsEveryField := by
  intro s rest
  refine ⟨step_rst_true, fun hrst w hw hin => ?_, fun hrst st hquery hin => ?_, fun hrst hin => ?_⟩
  · exact step_settled ((fetch_cons hin).trans (takeWord_of_reset (s := { s with inputs := rest }) hrst hw))
  · exact step_settled
      ((fetch_cons hin).trans (accept_strobe_of_reset (s := { s with inputs := rest }) hrst hquery))
  · exact step_settled ((fetch_cons hin).trans
      (congrArg Fetched.settled (driveRst_false_of_reset (s := { s with inputs := rest }) hrst)))

end Sys2Proof.Proofs
end
